-- ==== Sys2Proof/Config.lean ====
section
/-! DEFINITION. The parameters of spec 00_scope.md R5. Every width is a constant of the design; the one open parameter,
CONTAINER_BYTE_ORDER, belongs to the environment and is an argument of the environment's stream functions, so a claim
about a stream speaks of both orders (92_eei_decisions.md D10, 93_implementation_defined.md I3). -/

namespace Sys2Proof

/-- The two values of the open parameter CONTAINER_BYTE_ORDER (R5, R23). -/
inductive ByteOrder where
  | little  -- the byte of container bits 7:0 comes first
  | big     -- the byte of container bits 15:8 comes first
  deriving DecidableEq, Repr

/-- DATA_W of R5. -/
def Config.dataW : Nat := 8

/-- CW_W of R5. -/
def Config.cwW : Nat := 13

/-- PAR_W of R5. -/
def Config.parW : Nat := 4

/-- G_W of R5. -/
def Config.gW : Nat := 1

/-- SYN_MAX of R5: the largest syndrome value that names a codeword bit. -/
def Config.synMax : Nat := 12

/-- CONTAINER_W of R5. -/
def Config.containerW : Nat := 16

/-- PAD_W of R5. -/
def Config.padW : Nat := Config.containerW - Config.cwW

/-- The default of CONTAINER_BYTE_ORDER (R5). PRESUMED by the spec itself (D10): no statement uses it. -/
def Config.containerByteOrderDefault : ByteOrder := .little

end Sys2Proof
end

