-- ==== Sys2Proof/Word.lean ====
section
/-! DEFINITION. The value formats of the block (spec 30_encoding.md R30, 00_scope.md R5, R6): every value is an
unsigned bit vector of a fixed width, bit 0 least significant. No format is variable and no mode changes one. -/

namespace Sys2Proof

/-- One byte of a byte stream or of a presented operand. -/
abbrev Byte := BitVec 8

/-- DataWord, 8 bits, bit `i` is `M_i` (R31). -/
abbrev DataWord := BitVec 8

/-- Codeword, 13 bits, bit `p` is position `p` of the position table (R32, R33). -/
abbrev Codeword := BitVec 13

/-- The four Hamming parity bits, bit `i` is `C_i` (R8, R51). -/
abbrev Parity := BitVec 4

/-- Syndrome, 4 bits, bit `i` belongs to `C_i` and has weight `2^i` (R37). -/
abbrev Syndrome := BitVec 4

/-- Container16, the environment's 2-byte storage form of one Codeword (R40). -/
abbrev Container16 := BitVec 16

end Sys2Proof
end

