-- ==== Sys2Proof/Syntax.lean ====
section
/-! DEFINITION. The operation set of spec 30_encoding.md R42: the four operations and the ten helper functions, one
constructor per row of spec/opcode_table.json. An evaluation of an operation plays the part an instruction execution
plays elsewhere (00_scope.md R9). -/

namespace Sys2Proof

/-- One evaluation: an operation and its operand values (R42, written as in R45). -/
inductive Instr where
  | enc (data : DataWord)                                   -- R54, port enc_data
  | syn (cw : Codeword)                                     -- R64, port dec_cw
  | gchk (cw : Codeword)                                    -- R66, no port
  | dec (cw : Codeword)                                     -- R70, port dec_cw
  | parity4 (m : DataWord)                                  -- R51
  | gbit (m : DataWord) (c : Parity)                        -- R52
  | assemble (m : DataWord) (c : Parity) (g : BitVec 1)     -- R35
  | extractM (cw : Codeword)                                -- R36
  | extractC (cw : Codeword)                                -- R36
  | extractG (cw : Codeword)                                -- R36
  | syndrome (cw : Codeword)                                -- R61
  | flip (cw : Codeword) (p : Nat)                          -- R62, p an integer 0..12
  | container (cw : Codeword)                               -- R40
  | uncontainer (k : Container16)                           -- R40
  deriving DecidableEq, Repr

/-- The names of the operations. No bit of an operand selects one (R30, R42: match and mask are 0): the environment
selects it, by the port it drives or the function it evaluates. -/
inductive Operation where
  | enc | syn | gchk | dec
  | parity4 | gbit | assemble | extractM | extractC | extractG | syndrome | flip | container | uncontainer
  deriving DecidableEq, Repr

/-- What the environment presents for one evaluation: which operation, and the operand's bytes, the byte of the lowest
bits first (DESIGN CHOICE, log 4). -/
structure Request where
  op : Operation
  operand : List Byte
  deriving DecidableEq, Repr

/-- The operation an evaluation is of. -/
def Instr.op : Instr → Operation
  | .enc _ => .enc
  | .syn _ => .syn
  | .gchk _ => .gchk
  | .dec _ => .dec
  | .parity4 _ => .parity4
  | .gbit _ _ => .gbit
  | .assemble _ _ _ => .assemble
  | .extractM _ => .extractM
  | .extractC _ => .extractC
  | .extractG _ => .extractG
  | .syndrome _ => .syndrome
  | .flip _ _ => .flip
  | .container _ => .container
  | .uncontainer _ => .uncontainer

end Sys2Proof
end

