-- ==== Sys2Proof/WellFormed.lean ====
section
/-! DEFINITION. Which evaluations the spec gives a meaning: all of them but FLIP at a position past 12 (spec
41_decoder.md R62, 93_implementation_defined.md I5). Every value of every other operand is legal (30_encoding.md R43). -/

namespace Sys2Proof

/-- Well-formed: FLIP's position names one of the 13 codeword bits (R62). -/
def Instr.wellFormed : Instr → Bool
  | .enc _ => true
  | .syn _ => true
  | .gchk _ => true
  | .dec _ => true
  | .parity4 _ => true
  | .gbit _ _ => true
  | .assemble _ _ _ => true
  | .extractM _ => true
  | .extractC _ => true
  | .extractG _ => true
  | .syndrome _ => true
  | .flip _ p => decide (p < Config.cwW)
  | .container _ => true
  | .uncontainer _ => true

end Sys2Proof
end

