-- ==== Sys2Proof/Decode.lean ====
section
/-! DEFINITION. From a presented request to the evaluation it asks for, and back. The spec has no opcode (30_encoding.md
R30, R42): the operation is selected beside the operand, and what is decoded is the operand, whose fields stand where
spec/opcode_table.json puts them. The bytes of an operand come lowest bits first (DESIGN CHOICE, log 4). -/

namespace Sys2Proof

/-- Why a request is no evaluation. All three are refusals at the boundary (92_eei_decisions.md D15), safe. -/
inductive DecodeError where
  /-- The operand has not the number of bytes its format takes. Raised by `decode`, safe. -/
  | operandLength
  /-- A bit above the format's width is set: the word is no value of the format. Raised by `decode`, safe. -/
  | bitsAboveFormat
  /-- FLIP asked at a position past 12 (R62, I5). Raised by `decode`, safe. -/
  | positionOutOfRange
  deriving DecidableEq, Repr

/-- A DataWord operand: one byte, every value legal (R31, R43). -/
def asDataWord : List Byte → Except DecodeError DataWord
  | [d] => .ok d
  | _ => .error .operandLength

/-- An operand of `width` bits (at most 16) held in two bytes, the unused high bits zero. -/
def asBits (width : Nat) : List Byte → Except DecodeError (BitVec width)
  | [lo, hi] =>
    let w : BitVec 16 := hi ++ lo
    if w.toNat < 2 ^ width then .ok (w.setWidth width) else .error .bitsAboveFormat
  | _ => .error .operandLength

/-- FLIP's operands: the codeword's two bytes and one byte of position, 0..12 (R62). The table gives the position no
bits; the byte after the codeword is the model's (log 4). -/
def asFlip : List Byte → Except DecodeError Instr
  | [lo, hi, p] =>
    match asBits 13 [lo, hi] with
    | .ok cw => if p.toNat < Config.cwW then .ok (.flip cw p.toNat) else .error .positionOutOfRange
    | .error e => .error e
  | _ => .error .operandLength

/-- The evaluation a request asks for, or why it asks for none. Field positions: spec/opcode_table.json. -/
def decode (r : Request) : Except DecodeError Instr :=
  match r.op with
  | .enc => (asDataWord r.operand).map .enc
  | .syn => (asBits 13 r.operand).map .syn
  | .gchk => (asBits 13 r.operand).map .gchk
  | .dec => (asBits 13 r.operand).map .dec
  | .parity4 => (asDataWord r.operand).map .parity4
  | .gbit => (asBits 12 r.operand).map fun w => .gbit (w.extractLsb' 4 8) (w.extractLsb' 0 4)
  | .assemble =>
    (asBits 13 r.operand).map fun w => .assemble (w.extractLsb' 5 8) (w.extractLsb' 1 4) (w.extractLsb' 0 1)
  | .extractM => (asBits 13 r.operand).map .extractM
  | .extractC => (asBits 13 r.operand).map .extractC
  | .extractG => (asBits 13 r.operand).map .extractG
  | .syndrome => (asBits 13 r.operand).map .syndrome
  | .flip => asFlip r.operand
  | .container => (asBits 13 r.operand).map .container
  | .uncontainer => (asBits 16 r.operand).map .uncontainer

/-- A word of at most 16 bits as two bytes, lowest bits first, zero above the word. -/
def wordBytes {n : Nat} (w : BitVec n) : List Byte :=
  let k : BitVec 16 := w.setWidth 16
  [k.extractLsb' 0 8, k.extractLsb' 8 8]

/-- The request that presents an evaluation: its operation, and its operands laid out as the table's fields. -/
def encode : Instr → Request
  | .enc d => ⟨.enc, [d]⟩
  | .syn cw => ⟨.syn, wordBytes cw⟩
  | .gchk cw => ⟨.gchk, wordBytes cw⟩
  | .dec cw => ⟨.dec, wordBytes cw⟩
  | .parity4 m => ⟨.parity4, [m]⟩
  | .gbit m c => ⟨.gbit, wordBytes (m ++ c)⟩
  | .assemble m c g => ⟨.assemble, wordBytes (m ++ c ++ g)⟩
  | .extractM cw => ⟨.extractM, wordBytes cw⟩
  | .extractC cw => ⟨.extractC, wordBytes cw⟩
  | .extractG cw => ⟨.extractG, wordBytes cw⟩
  | .syndrome cw => ⟨.syndrome, wordBytes cw⟩
  | .flip cw p => ⟨.flip, wordBytes cw ++ [BitVec.ofNat 8 p]⟩
  | .container cw => ⟨.container, wordBytes cw⟩
  | .uncontainer k => ⟨.uncontainer, wordBytes k⟩

/-- Which operation a bare word of the table is taken to ask for. The table's rows have match and mask 0, so a word's
bits select nothing (R42) and only its width can: an 8-bit word is what the port enc_data takes (ENC), a 13-bit word is
what the port dec_cw takes (DEC), a 12-bit word is GBIT's operand, and a 16-bit word with a bit above 12 set fits the
format of UNCONTAINER alone. DESIGN CHOICE, log 3. -/
def tableOperation (nbits w : Nat) : Option Operation :=
  match nbits with
  | 8 => if w < 2 ^ 8 then some .enc else none
  | 12 => if w < 2 ^ 12 then some .gbit else none
  | 13 => if w < 2 ^ 13 then some .dec else none
  | 16 => if w < 2 ^ 13 then some .dec else if w < 2 ^ 16 then some .uncontainer else none
  | _ => none

/-- The request a bare word of the table stands for. A word no row holds becomes an operand `decode` refuses. -/
def tableRequest (nbits w : Nat) : Request :=
  match tableOperation nbits w with
  | some .enc => ⟨.enc, [BitVec.ofNat 8 w]⟩
  | some op => ⟨op, wordBytes (BitVec.ofNat 16 w)⟩
  | none => ⟨.enc, []⟩

/-- The evaluation the decoder reads from a word of the opcode table. -/
def decodeTableWord (nbits w : Nat) : Option Instr :=
  match decode (tableRequest nbits w) with
  | .ok i => some i
  | .error _ => none

end Sys2Proof
end

