-- ==== Sys2Proof/Machine/State.lean ====
section
/-! DEFINITION. What a run of the block shows. The block itself holds no state (spec 10_state.md R10, R14 to R18): no
register, pc, flag, mode, memory or buffer. State therefore holds the values the environment drives on the two input
ports (R11, R12) and the environment's own list of evaluations still to present and of values returned so far
(20_memory.md R24 to R26; 30_encoding.md R45). The output ports are no fields: each is, at every moment, the function
value of the present input (R13), and Machine/Ops.lean gives it so. -/

namespace Sys2Proof.Machine

/-- The outcome of DEC without its payload, the port dec_outcome (R38). -/
inductive OutcomeTag where
  | clean
  | corrected
  | uncorrectable
  deriving DecidableEq, Repr

/-- The error cause, the port dec_error (60_exceptions.md R80, R83). -/
inductive ErrorCause where
  | none
  | uncorrectableSyndrome
  | parityMismatchAfterCorrection
  deriving DecidableEq, Repr

/-- The abstract Outcome (R9, R38, R71): Clean and Corrected carry the DataWord, Uncorrectable carries nothing. -/
inductive DecodedOutcome where
  | clean (data : DataWord)
  | corrected (data : DataWord)
  | uncorrectable
  deriving DecidableEq, Repr

/-- What SYN returns (R64). -/
structure SynResult where
  data : DataWord
  syndrome : Syndrome
  correctable : Bool
  cw2 : Codeword
  deriving DecidableEq, Repr

/-- DEC's result record (R39), its codes as names. -/
structure DecResult where
  outcome : OutcomeTag
  data : DataWord
  dataValid : Bool
  error : ErrorCause
  syndrome : Syndrome
  deriving DecidableEq, Repr

/-- The five output ports of DEC as bits (R12). -/
structure DecPorts where
  outcome : BitVec 2
  data : BitVec 8
  dataValid : BitVec 1
  error : BitVec 2
  syndrome : BitVec 4
  deriving DecidableEq, Repr

/-- A value returned to the environment: the right-hand side of one line of R45, one constructor per operation. -/
inductive Value where
  | enc (cw : Codeword)
  | syn (r : SynResult)
  | gchk (ok : Bool)
  | dec (r : DecResult)
  | parity4 (c : Parity)
  | gbit (g : BitVec 1)
  | assemble (cw : Codeword)
  | extractM (m : DataWord)
  | extractC (c : Parity)
  | extractG (g : BitVec 1)
  | syndrome (s : Syndrome)
  | flip (cw : Codeword)
  | container (k : Container16)
  | uncontainer (cw : Codeword)
  deriving DecidableEq, Repr

/-- Faults. The block has none (60_exceptions.md R80); the one below is its consumer's. -/
inductive Fault where
  /-- The environment sampled the unused code 3 on dec_outcome or dec_error: a fault of the producer
  (93_implementation_defined.md I6). Raised by `readDecPorts`, which DEC's meaning calls. Safe: the machine stops. -/
  | codeNeverProduced
  deriving DecidableEq, Repr

/-- Refusals. -/
inductive Refusal where
  /-- The instruction has no meaning yet. Raised by `exec`'s own arms only; safe. -/
  | notModelled (mnemonic : String)
  /-- The presented request is no evaluation (92_eei_decisions.md D15: refused at the boundary). Raised by `step`; safe. -/
  | undecodable (e : DecodeError)
  /-- FLIP at a position past 12, which the spec leaves undefined and treats as refused (R62, I5). Raised by FLIP's
  meaning; safe. -/
  | flipPositionUndefined
  deriving DecidableEq, Repr

/-- The input ports and the environment's lists. -/
structure State where
  encData : DataWord          -- the present value on enc_data (R11)
  decCw : Codeword            -- the present value on dec_cw (R12)
  requests : List Request     -- evaluations the environment has still to present, the next one first (R24, R25, R45)
  returned : List Value       -- values returned to the environment, oldest first (R45)
  deriving DecidableEq, Repr

/-- The machine before any evaluation. The block has no reset (70_reset_and_hazards.md R95); the inputs stand at zero as
in R96's table (DESIGN CHOICE, log 1), and the environment has presented nothing (log 2). -/
def State.reset : State where
  encData := 0
  decCw := 0
  requests := []
  returned := []

end Sys2Proof.Machine
end

