-- ==== Sys2Proof/Machine/Operands.lean ====
section
/-! DEFINITION. Bit selection and the layout functions: the position table (spec 30_encoding.md R33, R34), ASSEMBLE
(R35), the three slices (R36), the container (R40), and the bit notation of 00_scope.md R6. -/

namespace Sys2Proof.Machine

/-- `v[i]` of R6: bit `i` as a 1-bit value. -/
def bit {n : Nat} (v : BitVec n) (i : Nat) : BitVec 1 := v.extractLsb' i 1

/-- `xor_reduce(v)` of R6: the exclusive-or of all bits. -/
def xorReduce {n : Nat} (v : BitVec n) : BitVec 1 :=
  (List.range n).foldl (fun acc i => acc ^^^ bit v i) 0#1

/-- `popcount(v)` of R6: the number of 1 bits. -/
def popcount {n : Nat} (v : BitVec n) : Nat :=
  (List.range n).countP fun i => v.getLsbD i

/-- What a codeword position holds (R34: Overall, Parity(index), Data(index)). -/
inductive Role where
  | overall
  | parity (i : Nat)
  | data (i : Nat)
  deriving DecidableEq, Repr

/-- DATA_POS of R33: index `i` gives the position of `M_i`. -/
def dataPos : List Nat := [3, 5, 6, 7, 9, 10, 11, 12]

/-- PAR_POS of R33: index `i` gives the position of `C_i`. -/
def parPos : List Nat := [1, 2, 4, 8]

/-- G_POS of R33. -/
def gPos : Nat := 0

/-- The position table of R33, position 0 first. -/
def positionTable : List Role :=
  [.overall, .parity 0, .parity 1, .data 0, .parity 2, .data 1, .data 2, .data 3, .parity 3, .data 4, .data 5, .data 6,
    .data 7]

/-- The scan of R34: a position that is a power of two takes the next parity bit, any other the next data bit. -/
def scanRoles : List Nat → Nat → Nat → List Role
  | [], _, _ => []
  | p :: ps, c, m =>
    if p &&& (p - 1) = 0 then .parity c :: scanRoles ps (c + 1) m else .data m :: scanRoles ps c (m + 1)

/-- ASSEMBLE (R35), in its concatenation form. -/
def assemble (m : DataWord) (c : Parity) (g : BitVec 1) : Codeword :=
  bit m 7 ++ bit m 6 ++ bit m 5 ++ bit m 4 ++ bit c 3 ++ bit m 3 ++ bit m 2 ++ bit m 1 ++ bit c 2 ++ bit m 0 ++ bit c 1 ++
    bit c 0 ++ g

/-- The bit that stands at a position of that role in the codeword of `m`, `c`, `g` (R33). -/
def Role.bitOf (m : DataWord) (c : Parity) (g : BitVec 1) : Role → BitVec 1
  | .overall => g
  | .parity i => bit c i
  | .data i => bit m i

/-- EXTRACT_M (R36). -/
def extractM (cw : Codeword) : DataWord :=
  bit cw 12 ++ bit cw 11 ++ bit cw 10 ++ bit cw 9 ++ bit cw 7 ++ bit cw 6 ++ bit cw 5 ++ bit cw 3

/-- EXTRACT_C (R36). -/
def extractC (cw : Codeword) : Parity :=
  bit cw 8 ++ bit cw 4 ++ bit cw 2 ++ bit cw 1

/-- EXTRACT_G (R36). -/
def extractG (cw : Codeword) : BitVec 1 := bit cw 0

/-- CONTAINER (R40): zero-extension, the padding bits written as 0 (D9). -/
def toContainer (cw : Codeword) : Container16 := cw.setWidth 16

/-- UNCONTAINER (R40): the low 13 bits, the padding ignored. -/
def ofContainer (k : Container16) : Codeword := k.extractLsb' 0 13

end Sys2Proof.Machine
end

