-- ==== Sys2Proof/Machine/Flags.lean ====
section
/-! DEFINITION. The hardware has no flags (spec 10_state.md R16). What it computes about a word instead are its check
bits: PARITY4 (40_encoder.md R51), GBIT (R52), SYNDROME (41_decoder.md R61) and the range test (R63). -/

namespace Sys2Proof.Machine

/-- PARITY4 (R51, the subsets of R50): `C[i]` is `C_i`. -/
def parity4 (m : DataWord) : Parity :=
  let c0 := bit m 6 ^^^ bit m 4 ^^^ bit m 3 ^^^ bit m 1 ^^^ bit m 0
  let c1 := bit m 6 ^^^ bit m 5 ^^^ bit m 3 ^^^ bit m 2 ^^^ bit m 0
  let c2 := bit m 7 ^^^ bit m 3 ^^^ bit m 2 ^^^ bit m 1
  let c3 := bit m 7 ^^^ bit m 6 ^^^ bit m 5 ^^^ bit m 4
  c3 ++ c2 ++ c1 ++ c0

/-- GBIT (R52): the exclusive-or of the eight data bits and the four parity bits given. -/
def gbit (m : DataWord) (c : Parity) : BitVec 1 := xorReduce m ^^^ xorReduce c

/-- SYNDROME (R61): stored parity against parity recomputed from the stored data bits. -/
def syndromeOf (cw : Codeword) : Syndrome := extractC cw ^^^ parity4 (extractM cw)

/-- The range test `S > 12` of R63. -/
def outOfRange (s : Syndrome) : Bool := decide (Config.synMax < s.toNat)

end Sys2Proof.Machine
end

