-- ==== Sys2Proof/Machine/Ops.lean ====
section
/-! DEFINITION. The two units as functions (ENC: spec 40_encoder.md R54; SYN, GCHK, DEC: 41_decoder.md R64, R66, R70),
their ports (10_state.md R11 to R13), and the named operations over State. There is no exception to take and none to
return from (60_exceptions.md R86, R87): an error is a value on the ports, and `reportUncorrectable` is the one place
that makes it. -/

namespace Sys2Proof.Machine

/-- ENC (R54). -/
def evalEnc (d : DataWord) : Codeword :=
  let c := parity4 d
  let g := gbit d c
  assemble d c g

/-- FLIP (R62): bit `p` inverted, every other bit unchanged. Its meaning refuses `p > 12`. -/
def flipBit (cw : Codeword) (p : Nat) : Codeword := cw ^^^ (1#13 <<< p)

/-- SYN (R64). -/
def evalSyn (cw : Codeword) : SynResult :=
  let s := syndromeOf cw
  if s = 0#4 then { data := extractM cw, syndrome := s, correctable := true, cw2 := cw }
  else if outOfRange s then { data := 0x00, syndrome := s, correctable := false, cw2 := cw }
  else
    let cw2 := flipBit cw s.toNat
    { data := extractM cw2, syndrome := s, correctable := true, cw2 := cw2 }

/-- GCHK (R66): G recomputed from the data bits against the G stored; total on every word (D20). -/
def evalGchk (cw : Codeword) : Bool := extractG (evalEnc (extractM cw)) == extractG cw

/-- The record of an Uncorrectable outcome with its cause (R71, R81, R82): the one way an error is reported. -/
def reportUncorrectable (cause : ErrorCause) (data : DataWord) (s : Syndrome) : DecResult :=
  { outcome := .uncorrectable, data := data, dataValid := false, error := cause, syndrome := s }

/-- DEC (R70): the range test first, the overall-parity test only when it passed (R85). -/
def evalDec (cw : Codeword) : DecResult :=
  let r := evalSyn cw
  if r.correctable = false then reportUncorrectable .uncorrectableSyndrome 0x00 r.syndrome
  else if evalGchk r.cw2 = false then reportUncorrectable .parityMismatchAfterCorrection r.data r.syndrome
  else if r.syndrome = 0#4 then
    { outcome := .clean, data := r.data, dataValid := true, error := .none, syndrome := 0#4 }
  else
    { outcome := .corrected, data := r.data, dataValid := true, error := .none, syndrome := r.syndrome }

/-- The code on dec_outcome (R38). -/
def OutcomeTag.code : OutcomeTag → BitVec 2
  | .clean => 0
  | .corrected => 1
  | .uncorrectable => 2

/-- The outcome a code on dec_outcome names; code 3 names none (R38, R43). -/
def OutcomeTag.ofCode (c : BitVec 2) : Option OutcomeTag :=
  if c = 0 then some .clean else if c = 1 then some .corrected else if c = 2 then some .uncorrectable else none

/-- The code on dec_error (R83). -/
def ErrorCause.code : ErrorCause → BitVec 2
  | .none => 0
  | .uncorrectableSyndrome => 1
  | .parityMismatchAfterCorrection => 2

/-- The cause a code on dec_error names; code 3 names none (R83). -/
def ErrorCause.ofCode (c : BitVec 2) : Option ErrorCause :=
  if c = 0 then some .none else if c = 1 then some .uncorrectableSyndrome
  else if c = 2 then some .parityMismatchAfterCorrection else Option.none

/-- A result record as the bits of the five output ports (R12, R38, R83). -/
def DecResult.ports (r : DecResult) : DecPorts where
  outcome := r.outcome.code
  data := r.data
  dataValid := BitVec.ofBool r.dataValid
  error := r.error.code
  syndrome := r.syndrome

/-- What the environment reads from the five ports. An unused code is a fault of the producer (I6). -/
def readDecPorts (p : DecPorts) : Except Fault DecResult :=
  match OutcomeTag.ofCode p.outcome, ErrorCause.ofCode p.error with
  | some o, some e =>
    .ok { outcome := o, data := p.data, dataValid := p.dataValid == 1, error := e, syndrome := p.syndrome }
  | _, _ => .error .codeNeverProduced

/-- The abstract Outcome of a record (R38, R71): an Uncorrectable one carries no DataWord. -/
def DecResult.decoded (r : DecResult) : DecodedOutcome :=
  match r.outcome with
  | .clean => .clean r.data
  | .corrected => .corrected r.data
  | .uncorrectable => .uncorrectable

/-- The DataWord a consumer may use: the one flagged valid (R12, R71). -/
def DecResult.delivered (r : DecResult) : Option DataWord :=
  if r.dataValid then some r.data else none

/-- The port enc_cw: at every moment ENC of the present enc_data (R11, R13). -/
def State.encCw (s : State) : Codeword := evalEnc s.encData

/-- The ports dec_outcome, dec_data, dec_data_valid, dec_error, dec_syndrome: at every moment the five components of DEC
of the present dec_cw (R12, R13). -/
def State.decPorts (s : State) : DecPorts := (evalDec s.decCw).ports

/-- The environment drives enc_data. -/
def State.driveEnc (s : State) (d : DataWord) : State := { s with encData := d }

/-- The environment drives dec_cw. -/
def State.driveDec (s : State) (cw : Codeword) : State := { s with decCw := cw }

/-- A value is returned to the environment. -/
def State.give (s : State) (v : Value) : State := { s with returned := s.returned ++ [v] }

end Sys2Proof.Machine
end

