-- ==== Sys2Proof/Machine/Decoder.lean ====
section
/-! DEFINITION. The meanings of DEC, SYN, GCHK, SYNDROME and FLIP (spec 41_decoder.md). -/

namespace Sys2Proof.Machine

/-- DEC (R70): the environment drives dec_cw and reads the five output ports (R12, R13). -/
def execDec (cw : Codeword) (s : State) : Host.Outcome State Fault Refusal :=
  let s1 := s.driveDec cw
  match readDecPorts s1.decPorts with
  | .ok r => .next (s1.give (.dec r))
  | .error f => .fault f

/-- SYN (R64). It is internal to DEC, and its operand is the value of dec_cw (R64, the table's input port), so evaluating
it drives dec_cw; DEDUCED, log 6. -/
def execSyn (cw : Codeword) (s : State) : Host.Outcome State Fault Refusal :=
  let s1 := s.driveDec cw
  .next (s1.give (.syn (evalSyn s1.decCw)))

/-- GCHK (R66): no port of its own (R60), defined on every word (D20). -/
def execGchk (cw : Codeword) (s : State) : Host.Outcome State Fault Refusal :=
  .next (s.give (.gchk (evalGchk cw)))

/-- SYNDROME (R61), a helper with no port. -/
def execSyndrome (cw : Codeword) (s : State) : Host.Outcome State Fault Refusal :=
  .next (s.give (.syndrome (syndromeOf cw)))

/-- FLIP (R62), also the environment's fault injection (R45). Past position 12 the spec leaves it undefined and a model
refuses (I5). -/
def execFlip (cw : Codeword) (p : Nat) (s : State) : Host.Outcome State Fault Refusal :=
  if p < Config.cwW then .next (s.give (.flip (flipBit cw p))) else .refused .flipPositionUndefined

end Sys2Proof.Machine
end

