-- ==== Sys2Proof/Machine/Encoder.lean ====
section
/-! DEFINITION. The meanings of ENC, PARITY4 and GBIT (spec 40_encoder.md). -/

namespace Sys2Proof.Machine

/-- ENC (R54): the environment drives enc_data and takes the value of enc_cw (R11, R13). -/
def execEnc (d : DataWord) (s : State) : Host.Outcome State Fault Refusal :=
  let s1 := s.driveEnc d
  .next (s1.give (.enc s1.encCw))

/-- PARITY4 (R51), a helper with no port. -/
def execParity4 (m : DataWord) (s : State) : Host.Outcome State Fault Refusal :=
  .next (s.give (.parity4 (parity4 m)))

/-- GBIT (R52), a helper with no port. -/
def execGbit (m : DataWord) (c : Parity) (s : State) : Host.Outcome State Fault Refusal :=
  .next (s.give (.gbit (gbit m c)))

end Sys2Proof.Machine
end

