-- ==== Sys2Proof/Machine/Layout.lean ====
section
/-! DEFINITION. The meanings of the layout helpers (spec 30_encoding.md R35, R36, R40). None has a port. -/

namespace Sys2Proof.Machine

/-- ASSEMBLE (R35). -/
def execAssemble (m : DataWord) (c : Parity) (g : BitVec 1) (s : State) : Host.Outcome State Fault Refusal :=
  .next (s.give (.assemble (assemble m c g)))

/-- EXTRACT_M (R36). -/
def execExtractM (cw : Codeword) (s : State) : Host.Outcome State Fault Refusal :=
  .next (s.give (.extractM (extractM cw)))

/-- EXTRACT_C (R36). -/
def execExtractC (cw : Codeword) (s : State) : Host.Outcome State Fault Refusal :=
  .next (s.give (.extractC (extractC cw)))

/-- EXTRACT_G (R36). -/
def execExtractG (cw : Codeword) (s : State) : Host.Outcome State Fault Refusal :=
  .next (s.give (.extractG (extractG cw)))

/-- CONTAINER (R40), the environment's. -/
def execContainer (cw : Codeword) (s : State) : Host.Outcome State Fault Refusal :=
  .next (s.give (.container (toContainer cw)))

/-- UNCONTAINER (R40), the environment's. -/
def execUncontainer (k : Container16) (s : State) : Host.Outcome State Fault Refusal :=
  .next (s.give (.uncontainer (ofContainer k)))

end Sys2Proof.Machine
end

