-- ==== Sys2Proof/Machine/Dispatch.lean ====
section
/-! DEFINITION. One arm per operation of spec 30_encoding.md R42 and per helper row of spec/opcode_table.json. -/

namespace Sys2Proof.Machine

def exec (i : Instr) (s : State) : Host.Outcome State Fault Refusal :=
  match i with
  | .enc d => Sys2Proof.Machine.execEnc d s
  | .syn cw => Sys2Proof.Machine.execSyn cw s
  | .gchk cw => Sys2Proof.Machine.execGchk cw s
  | .dec cw => Sys2Proof.Machine.execDec cw s
  | .parity4 m => Sys2Proof.Machine.execParity4 m s
  | .gbit m c => Sys2Proof.Machine.execGbit m c s
  | .assemble m c g => Sys2Proof.Machine.execAssemble m c g s
  | .extractM cw => Sys2Proof.Machine.execExtractM cw s
  | .extractC cw => Sys2Proof.Machine.execExtractC cw s
  | .extractG cw => Sys2Proof.Machine.execExtractG cw s
  | .syndrome cw => Sys2Proof.Machine.execSyndrome cw s
  | .flip cw p => Sys2Proof.Machine.execFlip cw p s
  | .container cw => Sys2Proof.Machine.execContainer cw s
  | .uncontainer k => Sys2Proof.Machine.execUncontainer k s

end Sys2Proof.Machine
end

