-- ==== Sys2Proof/Machine/Step.lean ====
section
/-! DEFINITION. One step: the environment presents its next request and the evaluation is made, whole and at once (spec
20_memory.md R22, 70_reset_and_hazards.md R101, R102). There is no pc and nothing is fetched (10_state.md R15): the
environment's list of requests is what stands in a program's place (30_encoding.md R45). -/

namespace Sys2Proof.Machine

/-- The next request is taken from the list, decoded and evaluated. With none left the environment presents nothing new,
and nothing changes (R13; DESIGN CHOICE, log 5). -/
def step (s : State) : Host.Outcome State Fault Refusal :=
  match s.requests with
  | [] => .next s
  | r :: rest =>
    match decode r with
    | .ok i => exec i { s with requests := rest }
    | .error e => .refused (.undecodable e)

/-- The word of the opcode table put where the next step takes its request: at the head of the environment's list. -/
def State.withFetchWord (s : State) (nbits w : Nat) : State :=
  { s with requests := tableRequest nbits w :: s.requests }

end Sys2Proof.Machine
end

