-- ==== Sys2Proof/Machine/Environment.lean ====
section
/-! DEFINITION. The environment's contract with the block (spec 20_memory.md R21, R23 to R25): the two paths as functions
on sequences, for either value of CONTAINER_BYTE_ORDER. The file I/O around them is out of scope (00_scope.md R4). -/

namespace Sys2Proof.Machine

/-- The two stream bytes of a container (R23). -/
def containerBytes (order : ByteOrder) (k : Container16) : List Byte :=
  match order with
  | .little => [k.extractLsb' 0 8, k.extractLsb' 8 8]
  | .big => [k.extractLsb' 8 8, k.extractLsb' 0 8]

/-- The container of two stream bytes, in stream order (R23). -/
def containerOfBytes (order : ByteOrder) (first second : Byte) : Container16 :=
  match order with
  | .little => second ++ first
  | .big => first ++ second

/-- The encode path on units (R24): one container for each input byte, in order. -/
def encodeUnits (bytes : List Byte) : List Container16 :=
  bytes.map fun b => toContainer (evalEnc b)

/-- The decode path on units (R25): the data of exactly the units flagged valid, in order; the rest are skipped. -/
def decodeUnits (units : List Container16) : List Byte :=
  units.filterMap fun k => (evalDec (ofContainer k)).delivered

/-- A byte stream taken two bytes at a time (R21). A last single byte has no meaning (R102, N9, I9): refused, `none`. -/
def readContainers (order : ByteOrder) : List Byte → Option (List Container16)
  | [] => some []
  | [_] => none
  | a :: b :: rest => (readContainers order rest).map (containerOfBytes order a b :: ·)

/-- The encode path on byte streams (R24). -/
def encodeStream (order : ByteOrder) (bytes : List Byte) : List Byte :=
  (encodeUnits bytes).flatMap (containerBytes order)

/-- The decode path on byte streams (R25); `none` for a stream of odd length (I9). -/
def decodeStream (order : ByteOrder) (stream : List Byte) : Option (List Byte) :=
  (readContainers order stream).map decodeUnits

/-- A channel's damage to stored containers: the bits of each pattern are flipped, padding bits included (R41, R44). -/
def damageUnits (units patterns : List Container16) : List Container16 :=
  List.zipWith (· ^^^ ·) units patterns

end Sys2Proof.Machine
end

