-- ==== Sys2Proof/Safety.lean ====
section
/-! DEFINITION. What a safe run is: every value returned is one the spec lets its operation return (spec
30_encoding.md R39, R43; 40_encoder.md R56; 41_decoder.md R65). Nothing here is about the evaluations' inputs. -/

namespace Sys2Proof.Machine

/-- One of the 256 valid codewords, the image of ENC (R11, R43). -/
def isCodeword (cw : Codeword) : Bool := evalEnc (extractM cw) == cw

/-- A SYN result as R64 and R65 leave it: consistent when correctable, zero data and an out-of-range syndrome when not. -/
def SynResult.legal (r : SynResult) : Bool :=
  if r.correctable then !outOfRange r.syndrome && syndromeOf r.cw2 == 0 && r.data == extractM r.cw2
  else outOfRange r.syndrome && r.data == 0 && syndromeOf r.cw2 == r.syndrome

/-- The four rows of R39, with R71's zero payload in the row of UncorrectableSyndrome. -/
def DecResult.legal (r : DecResult) : Bool :=
  match r.outcome, r.dataValid, r.error with
  | .clean, true, .none => r.syndrome == 0
  | .corrected, true, .none => r.syndrome != 0 && !outOfRange r.syndrome
  | .uncorrectable, false, .uncorrectableSyndrome => outOfRange r.syndrome && r.data == 0
  | .uncorrectable, false, .parityMismatchAfterCorrection => !outOfRange r.syndrome
  | _, _, _ => false

/-- A value the spec lets its operation return. -/
def Value.legal : Value → Bool
  | .enc cw => isCodeword cw
  | .syn r => r.legal
  | .gchk _ => true
  | .dec r => r.legal
  | .parity4 _ => true
  | .gbit _ => true
  | .assemble _ => true
  | .extractM _ => true
  | .extractC _ => true
  | .extractG _ => true
  | .syndrome _ => true
  | .flip _ => true
  | .container k => bit k 15 == 0 && bit k 14 == 0 && bit k 13 == 0
  | .uncontainer _ => true

/-- A safe state: every value returned so far is legal. -/
def State.legal (s : State) : Bool := s.returned.all Value.legal

end Sys2Proof.Machine
end

