-- ==== Sys2Proof/Certificates/Slice0/Obligations.lean ====
section
/-! DEFINITION. The statements about the model, for the provers. Each docstring names the rule of the spec it comes from.
`{ s with … }` in a conclusion is the whole next state, so what is not named there is unchanged: the frame. -/

open Sys2Proof Sys2Proof.Machine

/-! ### Presenting an evaluation -/

/-- Decoding undoes encoding, for every well-formed evaluation and every operand value (layout: spec/opcode_table.json's
fields; the byte form is the model's, log 4). -/
def Obligations.DecodeOfEncodeIsIdentity : Prop :=
  ∀ i : Instr, i.wellFormed = true → decode (encode i) = .ok i

/-- A request has at most one reading, and it is the one its evaluation is presented by: no operand bit is dropped (the byte
form is the model's, log 4); and only well-formed evaluations are read, since the decoder refuses FLIP at a position past
12 (the model's reading of R62's undefined and I5's refuse, log 7). -/
def Obligations.EncodeOfDecodeIsIdentity : Prop :=
  ∀ (r : Request) (i : Instr), decode r = .ok i → encode i = r ∧ i.wellFormed = true

/-- A few operand words written out from the table's fields (the byte form is the model's, log 4), and three operands the
decoder refuses by name: one with a bit above its format and one of a wrong length (the model's reading of D15's refused at
the boundary, log 14), and FLIP at position 13 (its reading of I5, log 7). -/
def Obligations.OperandWordsDecode : Prop :=
  decode ⟨.enc, [0xA5#8]⟩ = .ok (.enc 0xA5#8) ∧
  decode ⟨.dec, [0xEE#8, 0x1E#8]⟩ = .ok (.dec 0x1EEE#13) ∧
  decode ⟨.gbit, [0xF3#8, 0x0F#8]⟩ = .ok (.gbit 0xFF#8 0x3#4) ∧
  decode ⟨.assemble, [0xE6#8, 0x1F#8]⟩ = .ok (.assemble 0xFF#8 0x3#4 0#1) ∧
  decode ⟨.flip, [0xE6#8, 0x1E#8, 3#8]⟩ = .ok (.flip 0x1EE6#13 3) ∧
  decode ⟨.uncontainer, [0xEE#8, 0xFE#8]⟩ = .ok (.uncontainer 0xFEEE#16) ∧
  decode ⟨.dec, [0xEE#8, 0x3E#8]⟩ = .error .bitsAboveFormat ∧
  decode ⟨.flip, [0xE6#8, 0x1E#8, 13#8]⟩ = .error .positionOutOfRange ∧
  decode ⟨.enc, []⟩ = .error .operandLength

/-- A step takes the next request and makes the evaluation it decodes to; it refuses a request that is none, by name; and
with no request it changes nothing (the request list, the refusal and the idle step are the model's, logs 2, 14 and 5). -/
def Obligations.StepEvaluatesNextRequest : Prop :=
  (∀ (s : State) (r : Request) (rest : List Request) (i : Instr),
    s.requests = r :: rest → decode r = .ok i → step s = exec i { s with requests := rest }) ∧
  (∀ (s : State) (r : Request) (rest : List Request) (e : DecodeError),
    s.requests = r :: rest → decode r = .error e → step s = .refused (.undecodable e)) ∧
  (∀ s : State, s.requests = [] → step s = .next s)

/-- A word of the table that the decoder reads is what the very next step evaluates (logs 2 and 3). -/
def Obligations.PlacedTableWordIsEvaluated : Prop :=
  ∀ (s : State) (nbits w : Nat) (i : Instr),
    decodeTableWord nbits w = some i → step (s.withFetchWord nbits w) = exec i s

/-! ### What each operation returns -/

/-- R54: ENC drives enc_data, and the codeword on enc_cw is the one of R54's thirteen bit equations, which is ASSEMBLE of
the data, its parity and its G bit; its corner cases and example; and different data words have different codewords. -/
def Obligations.EncReturnsCodeword : Prop :=
  (∀ (d : DataWord) (s : State), ∃ (cw : Codeword) (t : State),
    exec (.enc d) s = .next t ∧ t = { s with encData := d, returned := s.returned ++ [.enc cw] } ∧ t.encCw = cw ∧
    bit cw 0 = bit d 7 ^^^ bit d 5 ^^^ bit d 4 ^^^ bit d 2 ^^^ bit d 1 ^^^ bit d 0 ∧
    bit cw 1 = bit d 6 ^^^ bit d 4 ^^^ bit d 3 ^^^ bit d 1 ^^^ bit d 0 ∧
    bit cw 2 = bit d 6 ^^^ bit d 5 ^^^ bit d 3 ^^^ bit d 2 ^^^ bit d 0 ∧
    bit cw 3 = bit d 0 ∧
    bit cw 4 = bit d 7 ^^^ bit d 3 ^^^ bit d 2 ^^^ bit d 1 ∧
    bit cw 5 = bit d 1 ∧ bit cw 6 = bit d 2 ∧ bit cw 7 = bit d 3 ∧
    bit cw 8 = bit d 7 ^^^ bit d 6 ^^^ bit d 5 ^^^ bit d 4 ∧
    bit cw 9 = bit d 4 ∧ bit cw 10 = bit d 5 ∧ bit cw 11 = bit d 6 ∧ bit cw 12 = bit d 7 ∧
    cw = assemble d (parity4 d) (gbit d (parity4 d)) ∧ extractM cw = d ∧
    (d = 0x00#8 → cw = 0x0000#13) ∧ (d = 0xFF#8 → cw = 0x1EEE#13) ∧ (d = 0xA5#8 → cw = 0x144E#13)) ∧
  (∀ d d' : DataWord, d ≠ d' → evalEnc d ≠ evalEnc d')

/-- R51: the four parity formulas, and its examples. -/
def Obligations.Parity4ReturnsParityBits : Prop :=
  ∀ (m : DataWord) (s : State), ∃ c : Parity,
    exec (.parity4 m) s = .next { s with returned := s.returned ++ [.parity4 c] } ∧
    bit c 0 = bit m 6 ^^^ bit m 4 ^^^ bit m 3 ^^^ bit m 1 ^^^ bit m 0 ∧
    bit c 1 = bit m 6 ^^^ bit m 5 ^^^ bit m 3 ^^^ bit m 2 ^^^ bit m 0 ∧
    bit c 2 = bit m 7 ^^^ bit m 3 ^^^ bit m 2 ^^^ bit m 1 ∧
    bit c 3 = bit m 7 ^^^ bit m 6 ^^^ bit m 5 ^^^ bit m 4 ∧
    (m = 0x00#8 → c = 0b0000#4) ∧ (m = 0xFF#8 → c = 0b0011#4) ∧ (m = 0x01#8 → c = 0b0011#4) ∧
    (m = 0x80#8 → c = 0b1100#4) ∧ (m = 0xA5#8 → c = 0b0011#4) ∧ (m = 0x5A#8 → c = 0b0000#4) ∧
    (m = 0x69#8 → c = 0b0101#4)

/-- R50: each parity bit is the exclusive-or of the data bits under its mask, and the masks cover exactly the data bits
whose position has that bit set. -/
def Obligations.ParitySubsetsFollowPositions : Prop :=
  let masks : List DataWord := [0x5B#8, 0x6D#8, 0x8E#8, 0xF0#8]
  (∀ (m : DataWord) (i : Nat), i < 4 → bit (parity4 m) i = xorReduce (m &&& masks.getD i 0)) ∧
  (∀ (m : DataWord),
    bit (parity4 m) 0 = bit m 6 ^^^ bit m 4 ^^^ bit m 3 ^^^ bit m 1 ^^^ bit m 0 ∧
    bit (parity4 m) 1 = bit m 6 ^^^ bit m 5 ^^^ bit m 3 ^^^ bit m 2 ^^^ bit m 0 ∧
    bit (parity4 m) 2 = bit m 7 ^^^ bit m 3 ^^^ bit m 2 ^^^ bit m 1 ∧
    bit (parity4 m) 3 = bit m 7 ^^^ bit m 6 ^^^ bit m 5 ^^^ bit m 4) ∧
  (∀ i j : Nat, i < 4 → j < 8 → (masks.getD i 0).getLsbD j = (dataPos.getD j 0).testBit i) ∧
  masks.map popcount = [5, 5, 4, 4]

/-- R52: G is the exclusive-or of the twelve terms, and makes the whole codeword even. -/
def Obligations.GbitReturnsOverallParity : Prop :=
  ∀ (m : DataWord) (c : Parity) (s : State), ∃ g : BitVec 1,
    exec (.gbit m c) s = .next { s with returned := s.returned ++ [.gbit g] } ∧
    g = bit m 7 ^^^ bit m 6 ^^^ bit m 5 ^^^ bit m 4 ^^^ bit c 3 ^^^ bit m 3 ^^^ bit m 2 ^^^ bit m 1 ^^^ bit c 2 ^^^
      bit m 0 ^^^ bit c 1 ^^^ bit c 0 ∧
    g = xorReduce m ^^^ xorReduce c ∧
    xorReduce (assemble m c g) = 0 ∧
    (m = 0x00#8 → c = 0b0000#4 → g = 0) ∧ (m = 0xFF#8 → c = 0b0011#4 → g = 0) ∧
    (m = 0x01#8 → c = 0b0011#4 → g = 1)

/-- R53: over its own parity bits, G is six data bits, the mask 0xB7; M3 and M6 drop out, as terms of three parity bits
each (R50's masks) where every other data bit is a term of two. -/
def Obligations.GbitOfOwnParity : Prop :=
  ∀ m : DataWord,
    gbit m (parity4 m) = bit m 7 ^^^ bit m 5 ^^^ bit m 4 ^^^ bit m 2 ^^^ bit m 1 ^^^ bit m 0 ∧
    gbit m (parity4 m) = xorReduce (m &&& 0xB7#8) ∧
    ∀ j < 8, ([0x5B#8, 0x6D#8, 0x8E#8, 0xF0#8].countP fun mask => mask.getLsbD j) = if j = 3 ∨ j = 6 then 3 else 2

/-- R35: where ASSEMBLE puts each bit. -/
def Obligations.AssembleReturnsLayout : Prop :=
  ∀ (m : DataWord) (c : Parity) (g : BitVec 1) (s : State), ∃ cw : Codeword,
    exec (.assemble m c g) s = .next { s with returned := s.returned ++ [.assemble cw] } ∧
    bit cw 0 = g ∧ bit cw 1 = bit c 0 ∧ bit cw 2 = bit c 1 ∧ bit cw 3 = bit m 0 ∧ bit cw 4 = bit c 2 ∧
    bit cw 5 = bit m 1 ∧ bit cw 6 = bit m 2 ∧ bit cw 7 = bit m 3 ∧ bit cw 8 = bit c 3 ∧ bit cw 9 = bit m 4 ∧
    bit cw 10 = bit m 5 ∧ bit cw 11 = bit m 6 ∧ bit cw 12 = bit m 7 ∧
    (m = 0xFF#8 → c = 0b0011#4 → g = 0#1 → cw = 0x1EEE#13)

/-- R36: the three slices, what each reads, and that they and ASSEMBLE are inverse. -/
def Obligations.ExtractsReturnSlices : Prop :=
  (∀ (cw : Codeword) (s : State), ∃ (m : DataWord) (c : Parity) (g : BitVec 1),
    exec (.extractM cw) s = .next { s with returned := s.returned ++ [.extractM m] } ∧
    exec (.extractC cw) s = .next { s with returned := s.returned ++ [.extractC c] } ∧
    exec (.extractG cw) s = .next { s with returned := s.returned ++ [.extractG g] } ∧
    bit m 0 = bit cw 3 ∧ bit m 1 = bit cw 5 ∧ bit m 2 = bit cw 6 ∧ bit m 3 = bit cw 7 ∧
    bit m 4 = bit cw 9 ∧ bit m 5 = bit cw 10 ∧ bit m 6 = bit cw 11 ∧ bit m 7 = bit cw 12 ∧
    bit c 0 = bit cw 1 ∧ bit c 1 = bit cw 2 ∧ bit c 2 = bit cw 4 ∧ bit c 3 = bit cw 8 ∧ g = bit cw 0 ∧
    assemble m c g = cw ∧
    (cw = 0x1EEE#13 → m = 0xFF#8 ∧ c = 0b0011#4 ∧ g = 0#1)) ∧
  (∀ (m : DataWord) (c : Parity) (g : BitVec 1),
    extractM (assemble m c g) = m ∧ extractC (assemble m c g) = c ∧ extractG (assemble m c g) = g)

/-- R33 and R34: the codeword ASSEMBLE makes holds at each position the bit the position table names, the scan by powers
of two gives that table, and its position lists and masks are those of R33. -/
def Obligations.PositionTableIsTheLayout : Prop :=
  (∀ (m : DataWord) (c : Parity) (g : BitVec 1) (p : Nat), p < 13 →
    bit (assemble m c g) p = (positionTable.getD p .overall).bitOf m c g) ∧
  positionTable.length = 13 ∧
  positionTable = .overall :: scanRoles (List.range' 1 12) 0 0 ∧
  (∀ i < 8, positionTable[dataPos.getD i 0]? = some (.data i)) ∧
  (∀ i < 4, parPos.getD i 0 = 2 ^ i ∧ positionTable[parPos.getD i 0]? = some (.parity i)) ∧
  positionTable[gPos]? = some .overall ∧
  assemble 0xFF#8 0#4 0#1 = 0x1EE8#13 ∧ assemble 0#8 0xF#4 0#1 = 0x0116#13 ∧ assemble 0#8 0#4 1#1 = 0x0001#13

/-- R40 and R41: the container holds the codeword in its low 13 bits and zero above, reading one ignores the padding, and
the laws between the two; a flipped padding bit is not seen by DEC. -/
def Obligations.ContainerHoldsLow13Bits : Prop :=
  (∀ (cw : Codeword) (s : State), ∃ k : Container16,
    exec (.container cw) s = .next { s with returned := s.returned ++ [.container k] } ∧
    (∀ p < 13, bit k p = bit cw p) ∧ bit k 13 = 0 ∧ bit k 14 = 0 ∧ bit k 15 = 0 ∧ ofContainer k = cw ∧
    (cw = 0x1EEE#13 → k = 0x1EEE#16)) ∧
  (∀ (k : Container16) (s : State), ∃ cw : Codeword,
    exec (.uncontainer k) s = .next { s with returned := s.returned ++ [.uncontainer cw] } ∧
    (∀ p < 13, bit cw p = bit k p) ∧ cw = ofContainer (k &&& 0x1FFF#16) ∧
    (toContainer cw = k ↔ bit k 13 = 0 ∧ bit k 14 = 0 ∧ bit k 15 = 0) ∧ (k = 0xFEEE#16 → cw = 0x1EEE#13)) ∧
  (∀ (k : Container16) (p : Nat) (s : State), 13 ≤ p → p < 16 →
    exec (.dec (ofContainer (k ^^^ (1#16 <<< p)))) s = exec (.dec (ofContainer k)) s)

/-- R61 (with R37's bit order): the syndrome's bits, its reading as the exclusive-or of the positions of the 1 bits, its
linearity, its values on codewords and on single bits, and the examples. -/
def Obligations.SyndromeReturnsXorOfPositions : Prop :=
  (∀ (cw : Codeword) (s : State), ∃ y : Syndrome,
    exec (.syndrome cw) s = .next { s with returned := s.returned ++ [.syndrome y] } ∧
    y = extractC cw ^^^ parity4 (extractM cw) ∧
    bit y 0 = bit cw 1 ^^^ bit cw 3 ^^^ bit cw 5 ^^^ bit cw 7 ^^^ bit cw 9 ^^^ bit cw 11 ∧
    bit y 1 = bit cw 2 ^^^ bit cw 3 ^^^ bit cw 6 ^^^ bit cw 7 ^^^ bit cw 10 ^^^ bit cw 11 ∧
    bit y 2 = bit cw 4 ^^^ bit cw 5 ^^^ bit cw 6 ^^^ bit cw 7 ^^^ bit cw 12 ∧
    bit y 3 = bit cw 8 ^^^ bit cw 9 ^^^ bit cw 10 ^^^ bit cw 11 ^^^ bit cw 12 ∧
    y.toNat = (((List.range' 1 12).filter fun p => cw.getLsbD p).foldl (fun a p => a ^^^ p) 0) ∧
    (cw = 0x0000#13 → y = 0#4) ∧ (cw = 0x1EEE#13 → y = 0#4) ∧ (cw = 0x1EE6#13 → y = 3#4) ∧
    (cw = 0x1FCE#13 → y = 13#4)) ∧
  (∀ a b : Codeword, syndromeOf (a ^^^ b) = syndromeOf a ^^^ syndromeOf b) ∧
  (∀ d : DataWord, syndromeOf (evalEnc d) = 0) ∧
  (∀ p < 13, (syndromeOf (1#13 <<< p)).toNat = p)

/-- R62: FLIP inverts bit `p` and no other, for `p` in 0..12; past that the spec leaves it undefined, and the model refuses
by name (I5, log 7). -/
def Obligations.FlipInvertsOneBit : Prop :=
  (∀ (cw : Codeword) (p : Nat) (s : State), p ≤ 12 → ∃ cw' : Codeword,
    exec (.flip cw p) s = .next { s with returned := s.returned ++ [.flip cw'] } ∧
    (∀ q < 13, bit cw' q = if q = p then ~~~(bit cw q) else bit cw q) ∧
    cw' = cw ^^^ (1#13 <<< p) ∧
    (cw = 0x1EE6#13 → p = 3 → cw' = 0x1EEE#13)) ∧
  (∀ (cw : Codeword) (p : Nat) (s : State), 12 < p → exec (.flip cw p) s = .refused .flipPositionUndefined)

/-- R64: the three branches of SYN, what stays of the data when a parity position was flipped, and that the stored G plays
no part. (That evaluating SYN drives dec_cw is the model's reading of the table's input port, log 6.) -/
def Obligations.SynReturnsTestedWord : Prop :=
  ∀ (cw : Codeword) (s : State), ∃ r : SynResult,
    exec (.syn cw) s = .next { s with decCw := cw, returned := s.returned ++ [.syn r] } ∧
    r.syndrome = syndromeOf cw ∧
    (r.syndrome = 0#4 → r.data = extractM cw ∧ r.correctable = true ∧ r.cw2 = cw) ∧
    (12 < r.syndrome.toNat → r.data = 0x00#8 ∧ r.correctable = false ∧ r.cw2 = cw) ∧
    (1 ≤ r.syndrome.toNat → r.syndrome.toNat ≤ 12 →
      r.cw2 = flipBit cw r.syndrome.toNat ∧ r.data = extractM r.cw2 ∧ r.correctable = true) ∧
    (r.syndrome.toNat ∈ [1, 2, 4, 8] → r.data = extractM cw) ∧
    evalSyn (cw ^^^ 1#13) = { r with cw2 := r.cw2 ^^^ 1#13 } ∧
    (cw = 0x1EE6#13 → r = ⟨0xFF#8, 3#4, true, 0x1EEE#13⟩)

/-- R65: a word SYN does not refuse is parity-consistent after it, agrees in bits 12..1 with the codeword of its data,
which is the nearest one there, and keeps its G bit. -/
def Obligations.SynLeavesNearestCodeword : Prop :=
  ∀ cw : Codeword,
    bit (evalSyn cw).cw2 0 = bit cw 0 ∧
    ((evalSyn cw).correctable = true →
      syndromeOf (evalSyn cw).cw2 = 0 ∧
      extractC (evalSyn cw).cw2 = parity4 (extractM (evalSyn cw).cw2) ∧
      (evalSyn cw).cw2.extractLsb' 1 12 = (evalEnc (extractM (evalSyn cw).cw2)).extractLsb' 1 12 ∧
      ∀ d : DataWord, d ≠ extractM (evalSyn cw).cw2 →
        popcount ((cw ^^^ (evalSyn cw).cw2).extractLsb' 1 12) < popcount ((cw ^^^ evalEnc d).extractLsb' 1 12))

/-- R66: GCHK compares the stored G with the one recomputed from the data bits alone, on every word; on a word with
syndrome 0 it tests that the whole word is even. -/
def Obligations.GchkReturnsOverallParityTest : Prop :=
  ∀ (cw : Codeword) (s : State), ∃ ok : Bool,
    exec (.gchk cw) s = .next { s with returned := s.returned ++ [.gchk ok] } ∧
    (ok = true ↔ bit (evalEnc (extractM cw)) 0 = bit cw 0) ∧
    BitVec.ofBool ok =
      ~~~(bit cw 0 ^^^ bit cw 12 ^^^ bit cw 10 ^^^ bit cw 9 ^^^ bit cw 6 ^^^ bit cw 5 ^^^ bit cw 3) ∧
    (∀ p ∈ [1, 2, 4, 8], evalGchk (flipBit cw p) = ok) ∧
    (syndromeOf cw = 0 → (ok = true ↔ xorReduce cw = 0)) ∧
    (cw = 0x1EEE#13 → ok = true) ∧ (cw = 0x1EEF#13 → ok = false)

/-- R70: DEC's decision tree over SYN and GCHK, with the codes of R38 and R83 on the five ports, and its worked cases. -/
def Obligations.DecReturnsDecisionTreeLeaf : Prop :=
  ∀ (cw : Codeword) (s : State), ∃ (r : DecResult) (t : State),
    exec (.dec cw) s = .next t ∧ t = { s with decCw := cw, returned := s.returned ++ [.dec r] } ∧
    ((evalSyn cw).correctable = false →
      r = ⟨.uncorrectable, 0x00#8, false, .uncorrectableSyndrome, syndromeOf cw⟩ ∧
      t.decPorts = ⟨2#2, 0x00#8, 0#1, 1#2, syndromeOf cw⟩) ∧
    ((evalSyn cw).correctable = true → evalGchk (evalSyn cw).cw2 = false →
      r = ⟨.uncorrectable, (evalSyn cw).data, false, .parityMismatchAfterCorrection, syndromeOf cw⟩ ∧
      t.decPorts = ⟨2#2, (evalSyn cw).data, 0#1, 2#2, syndromeOf cw⟩) ∧
    ((evalSyn cw).correctable = true → evalGchk (evalSyn cw).cw2 = true → syndromeOf cw = 0#4 →
      r = ⟨.clean, (evalSyn cw).data, true, .none, 0#4⟩ ∧ t.decPorts = ⟨0#2, (evalSyn cw).data, 1#1, 0#2, 0#4⟩) ∧
    ((evalSyn cw).correctable = true → evalGchk (evalSyn cw).cw2 = true → syndromeOf cw ≠ 0#4 →
      r = ⟨.corrected, (evalSyn cw).data, true, .none, syndromeOf cw⟩ ∧
      t.decPorts = ⟨1#2, (evalSyn cw).data, 1#1, 0#2, syndromeOf cw⟩) ∧
    (cw = 0x0000#13 → r = ⟨.clean, 0x00#8, true, .none, 0#4⟩) ∧
    (cw = 0x1EE6#13 → r = ⟨.corrected, 0xFF#8, true, .none, 3#4⟩)

/-! ### What DEC guarantees -/

/-- R76: the closed form of DEC, from the syndrome and the parity of the received word. -/
def Obligations.DecClosedForm : Prop :=
  ∀ (cw : Codeword) (s : State), ∃ r : DecResult,
    exec (.dec cw) s = .next { s with decCw := cw, returned := s.returned ++ [.dec r] } ∧
    r.syndrome = syndromeOf cw ∧
    ((syndromeOf cw).toNat = 0 → xorReduce cw = 0 → r.outcome = .clean ∧ r.error = .none ∧ r.data = extractM cw) ∧
    ((syndromeOf cw).toNat = 0 → xorReduce cw = 1 →
      r.outcome = .uncorrectable ∧ r.error = .parityMismatchAfterCorrection) ∧
    (1 ≤ (syndromeOf cw).toNat → (syndromeOf cw).toNat ≤ 12 → xorReduce cw = 1 →
      r.outcome = .corrected ∧ r.error = .none ∧ r.data = extractM (flipBit cw (syndromeOf cw).toNat)) ∧
    (1 ≤ (syndromeOf cw).toNat → (syndromeOf cw).toNat ≤ 12 → xorReduce cw = 0 →
      r.outcome = .uncorrectable ∧ r.error = .parityMismatchAfterCorrection) ∧
    (13 ≤ (syndromeOf cw).toNat → r.outcome = .uncorrectable ∧ r.error = .uncorrectableSyndrome)

/-- R71: what dec_data holds with each error cause, flagged not valid, and that the abstract Uncorrectable carries no
DataWord, so a consumer is handed none. -/
def Obligations.UncorrectablePayload : Prop :=
  ∀ cw : Codeword,
    ((evalDec cw).error = .uncorrectableSyndrome → (evalDec cw).data = 0x00#8 ∧ (evalDec cw).dataValid = false) ∧
    ((evalDec cw).error = .parityMismatchAfterCorrection →
      (evalDec cw).data = extractM (evalSyn cw).cw2 ∧ (evalDec cw).dataValid = false ∧
      (syndromeOf cw = 0 → (evalDec cw).data = extractM cw)) ∧
    ((evalDec cw).error ≠ .none →
      (evalDec cw).outcome = .uncorrectable ∧ (evalDec cw).decoded = .uncorrectable ∧ (evalDec cw).delivered = none)

/-- R39: the combinations of outcome, valid flag, error and syndrome that occur are exactly the four of its table. -/
def Obligations.ResultCombinationsAreExactlyFour : Prop :=
  ∀ (o : OutcomeTag) (v : Bool) (e : ErrorCause) (y : Syndrome),
    (∃ cw : Codeword, (evalDec cw).outcome = o ∧ (evalDec cw).dataValid = v ∧ (evalDec cw).error = e ∧
      (evalDec cw).syndrome = y) ↔
    ((o = .clean ∧ v = true ∧ e = .none ∧ y.toNat = 0) ∨
     (o = .corrected ∧ v = true ∧ e = .none ∧ 1 ≤ y.toNat ∧ y.toNat ≤ 12) ∨
     (o = .uncorrectable ∧ v = false ∧ e = .uncorrectableSyndrome ∧ 13 ≤ y.toNat) ∨
     (o = .uncorrectable ∧ v = false ∧ e = .parityMismatchAfterCorrection ∧ y.toNat ≤ 12))

/-- R12, R38, R43 and R83 at the ports of any state: code 3 stands on neither code port, the valid flag is 0 exactly on
code 2, a cause is given exactly then, the syndrome port shows the present word's syndrome, and enc_cw always shows the
codeword of the present data, even and with syndrome 0; so a consumer that stops on code 3 (I6, log 8) never does. -/
def Obligations.PortsOfEveryState : Prop :=
  ∀ s : State,
    s.decPorts.outcome ≠ 3#2 ∧ s.decPorts.error ≠ 3#2 ∧
    (s.decPorts.dataValid = 0#1 ↔ s.decPorts.outcome = 2#2) ∧
    (s.decPorts.error ≠ 0#2 ↔ s.decPorts.outcome = 2#2) ∧
    s.decPorts.syndrome = syndromeOf s.decCw ∧
    extractM s.encCw = s.encData ∧ syndromeOf s.encCw = 0 ∧ xorReduce s.encCw = 0 ∧
    readDecPorts s.decPorts = .ok (evalDec s.decCw)

/-- R73: decoding the codeword of `d` gives Clean with `d`, on every port. -/
def Obligations.RoundTripIsClean : Prop :=
  ∀ (d : DataWord) (s : State), ∃ t : State,
    exec (.dec (evalEnc d)) s = .next t ∧
    t = { s with decCw := evalEnc d, returned := s.returned ++ [.dec ⟨.clean, d, true, .none, 0#4⟩] } ∧
    t.decPorts = ⟨0#2, d, 1#1, 0#2, 0#4⟩

/-- R74 (C1): a flip at a position in 1..12 is corrected and named; a flip of the G bit alone is Uncorrectable by parity
with the data intact on the port; no single flip gives a syndrome past 12. -/
def Obligations.SingleFlipIsCorrectedExceptG : Prop :=
  (∀ (d : DataWord) (p : Nat) (s : State), 1 ≤ p → p ≤ 12 →
    exec (.dec (flipBit (evalEnc d) p)) s = .next
      { s with decCw := flipBit (evalEnc d) p,
               returned := s.returned ++ [.dec ⟨.corrected, d, true, .none, BitVec.ofNat 4 p⟩] }) ∧
  (∀ (d : DataWord) (s : State),
    exec (.dec (flipBit (evalEnc d) 0)) s = .next
      { s with decCw := flipBit (evalEnc d) 0,
               returned := s.returned ++
                 [.dec ⟨.uncorrectable, d, false, .parityMismatchAfterCorrection, 0#4⟩] }) ∧
  (∀ (d : DataWord) (p : Nat), p ≤ 12 → (syndromeOf (flipBit (evalEnc d) p)).toNat = p)

/-- R75, two flips: every pair of distinct positions makes every codeword Uncorrectable; the cause, the syndrome and the
payload by the pair. -/
def Obligations.DoubleFlipIsDetected : Prop :=
  ∀ (d : DataWord) (p q : Nat), p < q → q ≤ 12 →
    let r := evalDec (flipBit (flipBit (evalEnc d) p) q)
    r.outcome = .uncorrectable ∧ r.dataValid = false ∧ r.syndrome = BitVec.ofNat 4 (p ^^^ q) ∧
    (p = 0 → r.error = .parityMismatchAfterCorrection ∧ r.data = d) ∧
    (1 ≤ p → p ^^^ q ≤ 12 → r.error = .parityMismatchAfterCorrection ∧ r.data ≠ d) ∧
    (1 ≤ p → 12 < p ^^^ q → r.error = .uncorrectableSyndrome ∧ r.data = 0x00#8)

/-- R75, last sentence: the class of DEC(ENC(d) ^ e) depends on the error pattern alone, and a payload flagged valid is `d`
changed by what the pattern alone decodes to. -/
def Obligations.OutcomeDependsOnErrorPatternOnly : Prop :=
  ∀ (d : DataWord) (e : Codeword),
    (evalDec (evalEnc d ^^^ e)).outcome = (evalDec e).outcome ∧
    (evalDec (evalEnc d ^^^ e)).error = (evalDec e).error ∧
    (evalDec (evalEnc d ^^^ e)).syndrome = (evalDec e).syndrome ∧
    (evalDec (evalEnc d ^^^ e)).dataValid = (evalDec e).dataValid ∧
    ((evalDec e).error ≠ .uncorrectableSyndrome →
      (evalDec (evalEnc d ^^^ e)).data = d ^^^ (evalDec e).data)

/-- R75, the census over all 8192 inputs. -/
def Obligations.CensusOfAllInputs : Prop :=
  let count (f : DecResult → Bool) : Nat := (List.range 8192).countP fun w => f (evalDec (BitVec.ofNat 13 w))
  count (fun r => r.outcome == .clean) = 256 ∧
  count (fun r => r.outcome == .corrected) = 3072 ∧
  count (fun r => r.outcome == .uncorrectable && r.error == .uncorrectableSyndrome) = 1536 ∧
  count (fun r => r.outcome == .uncorrectable && r.error == .parityMismatchAfterCorrection) = 3328 ∧
  count (fun r => r.error == .parityMismatchAfterCorrection && r.syndrome == 0) = 256

/-- R75 and I8, three flips: of the 286 triples of positions, for every data word, 203 give Corrected, with a wrong
DataWord, 66 the first cause and 17 the second. -/
def Obligations.TripleFlipsAreNotGuaranteed : Prop :=
  let triples : List Codeword := ((List.range 8192).map (BitVec.ofNat 13)).filter fun e => popcount e == 3
  triples.length = 286 ∧
  ∀ d : DataWord,
    triples.countP (fun e =>
      (evalDec (evalEnc d ^^^ e)).outcome == .corrected && (evalDec (evalEnc d ^^^ e)).data != d) = 203 ∧
    triples.countP (fun e => (evalDec (evalEnc d ^^^ e)).error == .uncorrectableSyndrome) = 66 ∧
    triples.countP (fun e => (evalDec (evalEnc d ^^^ e)).error == .parityMismatchAfterCorrection) = 17

/-- R56: ENC is linear and given by its eight columns; every codeword is even and has syndrome 0 (the positions of its 1
bits cancel); two codewords differ in at least 4 bits, and in at least 3 of bits 12..1. -/
def Obligations.CodeIsLinearWithDistanceFour : Prop :=
  let columns : List Codeword :=
    [0x000F#13, 0x0033#13, 0x0055#13, 0x0096#13, 0x0303#13, 0x0505#13, 0x0906#13, 0x1111#13]
  (∀ a b : DataWord, evalEnc (a ^^^ b) = evalEnc a ^^^ evalEnc b) ∧ evalEnc 0#8 = 0#13 ∧
  (∀ i < 8, evalEnc (1#8 <<< i) = columns.getD i 0) ∧
  (∀ d : DataWord,
    evalEnc d = (List.range 8).foldl (fun acc i => if d.getLsbD i then acc ^^^ columns.getD i 0 else acc) 0#13 ∧
    xorReduce (evalEnc d) = 0 ∧ syndromeOf (evalEnc d) = 0 ∧
    ((List.range' 1 12).filter fun p => (evalEnc d).getLsbD p).foldl (fun a p => a ^^^ p) 0 = 0) ∧
  (∀ a b : DataWord, a ≠ b →
    4 ≤ popcount (evalEnc a ^^^ evalEnc b) ∧ 3 ≤ popcount ((evalEnc a ^^^ evalEnc b).extractLsb' 1 12)) ∧
  popcount (evalEnc 0x01#8) = 4

/-! ### The two error causes -/

/-- R80, R81, R82: when DEC reports each cause, and what it records with it. -/
def Obligations.ErrorCauseConditions : Prop :=
  ∀ (cw : Codeword) (s : State), ∃ t : State, exec (.dec cw) s = .next t ∧
    (t.decPorts.error = 1#2 ↔ 12 < (syndromeOf cw).toNat) ∧
    (t.decPorts.error = 2#2 ↔
      ((syndromeOf cw).toNat = 0 ∧ xorReduce cw = 1) ∨
      (1 ≤ (syndromeOf cw).toNat ∧ (syndromeOf cw).toNat ≤ 12 ∧ xorReduce cw = 0)) ∧
    (t.decPorts.error = 1#2 → t.decPorts = ⟨2#2, 0x00#8, 0#1, 1#2, syndromeOf cw⟩) ∧
    (t.decPorts.error = 2#2 → t.decPorts = ⟨2#2, extractM (evalSyn cw).cw2, 0#1, 2#2, syndromeOf cw⟩) ∧
    (t.decPorts.outcome = 2#2 ↔ t.decPorts.error = 1#2 ∨ t.decPorts.error = 2#2)

/-- R85: with a syndrome past 12 the cause is UncorrectableSyndrome whatever the G bit is, and no output depends on it. -/
def Obligations.RangeTestComesFirst : Prop :=
  ∀ (cw : Codeword) (s : State), 12 < (syndromeOf cw).toNat → ∀ w ∈ [cw, cw ^^^ 1#13],
    exec (.dec w) s = .next
      { s with decCw := w,
               returned := s.returned ++ [.dec ⟨.uncorrectable, 0x00#8, false, .uncorrectableSyndrome, syndromeOf cw⟩] }

/-- R87 (and R16): an error leaves no trace. After any codeword, one that DEC reports Uncorrectable included, the next is
decoded as if the first had never come, and the encoder's port is not touched. -/
def Obligations.ErrorLeavesNoTrace : Prop :=
  ∀ (first cw : Codeword) (s : State), ∃ (v : Value) (t u w : State),
    exec (.dec first) s = .next t ∧ exec (.dec cw) t = .next u ∧ exec (.dec cw) s = .next w ∧
    u.decPorts = w.decPorts ∧ u.returned = t.returned ++ [v] ∧ w.returned = s.returned ++ [v] ∧ t.encCw = s.encCw

/-! ### The block as a whole -/

/-- R55, R72, R80, R102: no evaluation ever faults (the one fault there is, a consumer's on code 3, is the model's by I6, log
8), and one completes from any state exactly when it is well-formed (FLIP at a position past 12 is the one that is not: the
model refuses it by I5, log 7). -/
def Obligations.EvaluationsCompleteAndNeverFault : Prop :=
  ∀ (i : Instr) (s : State),
    (∀ f : Fault, exec i s ≠ .fault f) ∧ (i.wellFormed = true ↔ ∃ t : State, exec i s = .next t)

/-- The frame of every evaluation: the environment's pending requests stay, one value is added to those returned, ENC alone
moves the encoder's ports, and DEC and SYN alone move the decoder's (R10, R60; SYN's port by log 6). -/
def Obligations.EvaluationFrame : Prop :=
  ∀ (i : Instr) (s t : State), exec i s = .next t →
    t.requests = s.requests ∧ (∃ v : Value, t.returned = s.returned ++ [v]) ∧
    (i.op ≠ .enc → t.encData = s.encData ∧ t.encCw = s.encCw) ∧
    (i.op ≠ .dec → i.op ≠ .syn → t.decCw = s.decCw ∧ t.decPorts = s.decPorts)

/-- R10, R18, R22: what an evaluation returns depends on its operands and on nothing the machine holds. -/
def Obligations.ValueDependsOnOperandsAlone : Prop :=
  ∀ (i : Instr) (s s' t : State), exec i s = .next t → ∃ (v : Value) (t' : State),
    exec i s' = .next t' ∧ t.returned = s.returned ++ [v] ∧ t'.returned = s'.returned ++ [v]

/-- R26: two evaluations give the same two values in either order, and leave the same ports when they are not evaluations of
the same unit. -/
def Obligations.EvaluationOrderDoesNotMatter : Prop :=
  ∀ (i j : Instr) (s : State), i.wellFormed = true → j.wellFormed = true →
    ∃ (vi vj : Value) (si sij sj sji : State),
      exec i s = .next si ∧ exec j si = .next sij ∧ exec j s = .next sj ∧ exec i sj = .next sji ∧
      sij.returned = s.returned ++ [vi, vj] ∧ sji.returned = s.returned ++ [vj, vi] ∧
      (i.op = .enc ∨ j.op = .enc → i.op ≠ j.op →
        sij.encCw = sji.encCw ∧ sij.decPorts = sji.decPorts)

/-- The invariant: every value returned is one the spec lets its operation return (R39, R43, R56, R65, `State.legal`), and
every step keeps it so. -/
def Obligations.StepKeepsReturnedValuesLegal : Prop :=
  ∀ s t : State, s.legal = true → step s = .next t → t.legal = true

/-- The invariant holds at reset, where (R96, with the inputs held at zero: log 1) the ports show ENC of 0 and DEC of 0, and
a step changes nothing (log 5). -/
def Obligations.ResetIsLegalWithZeroPorts : Prop :=
  State.reset.legal = true ∧ State.reset.encCw = 0x0000#13 ∧ State.reset.decPorts = ⟨0#2, 0x00#8, 1#1, 0#2, 0#4⟩ ∧
  step State.reset = .next State.reset

/-! ### The environment's two paths -/

/-- R24: the encode path gives two bytes for each input byte, whose containers are those of the codewords in order; an
empty input gives an empty output. -/
def Obligations.EncodePathStoresContainersInOrder : Prop :=
  ∀ (order : ByteOrder) (bytes : List Byte),
    (encodeStream order bytes).length = 2 * bytes.length ∧
    readContainers order (encodeStream order bytes) = some (bytes.map fun b => toContainer (evalEnc b)) ∧
    encodeStream order [] = []

/-- R23: which bits the two stream bytes hold, for each byte order; and that the two paths must use the same order. -/
def Obligations.ByteOrderOfContainers : Prop :=
  (∀ (cw : Codeword), ∃ lo hi : Byte,
    containerBytes .little (toContainer cw) = [lo, hi] ∧ containerBytes .big (toContainer cw) = [hi, lo] ∧
    (∀ p < 8, bit lo p = bit cw p) ∧ (∀ p < 5, bit hi p = bit cw (p + 8)) ∧
    bit hi 5 = 0 ∧ bit hi 6 = 0 ∧ bit hi 7 = 0) ∧
  (∀ a b : ByteOrder, (∀ bytes : List Byte, decodeStream b (encodeStream a bytes) = some bytes) ↔ a = b)

/-- R25: the decode path keeps, in order, the data of exactly the units flagged valid, and is shorter by the number of
Uncorrectable units. -/
def Obligations.DecodePathSkipsUncorrectableUnits : Prop :=
  (∀ us vs : List Container16, decodeUnits (us ++ vs) = decodeUnits us ++ decodeUnits vs) ∧
  (∀ k : Container16,
    ((evalDec (ofContainer k)).dataValid = true → decodeUnits [k] = [(evalDec (ofContainer k)).data]) ∧
    ((evalDec (ofContainer k)).dataValid = false → decodeUnits [k] = [])) ∧
  (∀ us : List Container16,
    (decodeUnits us).length + us.countP (fun k => (evalDec (ofContainer k)).outcome == .uncorrectable) = us.length)

/-- R25's file-level property: without damage the decode path gives back the encode path's input, for either byte order. -/
def Obligations.UndamagedStreamReproducesInput : Prop :=
  ∀ (order : ByteOrder) (bytes : List Byte), decodeStream order (encodeStream order bytes) = some bytes

/-- A stream of odd length has no meaning (I9): the model refuses it, and takes every other (log 11). -/
def Obligations.OddStreamIsRefused : Prop :=
  ∀ (order : ByteOrder) (stream : List Byte), decodeStream order stream = none ↔ stream.length % 2 = 1

/-- R74 over a stream: with at most one of positions 1..12 flipped in each unit, and any padding bits, nothing is lost. -/
def Obligations.SingleFlipStreamIsRecovered : Prop :=
  ∀ (bytes : List Byte) (patterns : List Container16), patterns.length = bytes.length →
    (∀ e ∈ patterns, popcount (ofContainer e) ≤ 1 ∧ bit e 0 = 0) →
    decodeUnits (damageUnits (encodeUnits bytes) patterns) = bytes

/-- R75 and I8 over a stream: with at most two flipped codeword bits in each unit, and any padding bits, the output is the
input with some bytes left out: no wrong byte is ever delivered. -/
def Obligations.TwoFlipStreamIsNeverCorrupted : Prop :=
  ∀ (bytes : List Byte) (patterns : List Container16), patterns.length = bytes.length →
    (∀ e ∈ patterns, popcount (ofContainer e) ≤ 2) →
    (decodeUnits (damageUnits (encodeUnits bytes) patterns)).Sublist bytes
end

