-- ==== Sys2Proof/Laws/Bits.lean ====
section
/-! SUPPORT. The bit notation as Booleans, and the linearity over XOR of the layout and check-bit functions (each output
bit is an XOR of input bits, spec 40_encoder.md R57): what a proof about codewords rests on, so that none unfolds the
concatenations again. -/

namespace Sys2Proof.Machine

/-- A selected bit as the Boolean it is. -/
theorem bit_eq_ofBool {n : Nat} (v : BitVec n) (i : Nat) : bit v i = BitVec.ofBool (v.getLsbD i) := by
  apply BitVec.eq_of_getLsbD_eq
  intro j hj
  obtain rfl : j = 0 := by omega
  simp [bit]

@[simp] theorem bit_xor {n : Nat} (a b : BitVec n) (i : Nat) : bit (a ^^^ b) i = bit a i ^^^ bit b i := by
  simp only [bit, BitVec.extractLsb'_xor]

theorem foldl_xor_bits {n : Nat} (a b : BitVec n) (is : List Nat) (x y : BitVec 1) :
    is.foldl (fun acc i => acc ^^^ bit (a ^^^ b) i) (x ^^^ y) =
      is.foldl (fun acc i => acc ^^^ bit a i) x ^^^ is.foldl (fun acc i => acc ^^^ bit b i) y := by
  induction is generalizing x y with
  | nil => rfl
  | cons i is ih =>
    rw [List.foldl_cons, List.foldl_cons, List.foldl_cons, ← ih, bit_xor]
    congr 1
    ac_rfl

theorem xorReduce_xor {n : Nat} (a b : BitVec n) : xorReduce (a ^^^ b) = xorReduce a ^^^ xorReduce b :=
  foldl_xor_bits a b (List.range n) 0#1 0#1

/-- XOR goes through a concatenation part by part. -/
theorem xor_concat {n k : Nat} (a b : BitVec n) (c d : BitVec k) :
    (a ^^^ b) ++ (c ^^^ d) = (a ++ c) ^^^ (b ++ d) := BitVec.xor_append.symm

theorem assemble_xor (m m' : DataWord) (c c' : Parity) (g g' : BitVec 1) :
    assemble (m ^^^ m') (c ^^^ c') (g ^^^ g') = assemble m c g ^^^ assemble m' c' g' := by
  simp only [assemble, bit_xor, xor_concat]

theorem extractM_xor (a b : Codeword) : extractM (a ^^^ b) = extractM a ^^^ extractM b := by
  simp only [extractM, bit_xor, xor_concat]

theorem extractC_xor (a b : Codeword) : extractC (a ^^^ b) = extractC a ^^^ extractC b := by
  simp only [extractC, bit_xor, xor_concat]

theorem extractG_xor (a b : Codeword) : extractG (a ^^^ b) = extractG a ^^^ extractG b := bit_xor a b 0

/-- The XOR of four, and of five, XORs regrouped by operand. -/
theorem xor_regroup_four (a b c d a' b' c' d' : BitVec 1) :
    (a ^^^ a') ^^^ (b ^^^ b') ^^^ (c ^^^ c') ^^^ (d ^^^ d') = (a ^^^ b ^^^ c ^^^ d) ^^^ (a' ^^^ b' ^^^ c' ^^^ d') := by
  ac_rfl

theorem xor_regroup_five (a b c d e a' b' c' d' e' : BitVec 1) :
    (a ^^^ a') ^^^ (b ^^^ b') ^^^ (c ^^^ c') ^^^ (d ^^^ d') ^^^ (e ^^^ e') =
      (a ^^^ b ^^^ c ^^^ d ^^^ e) ^^^ (a' ^^^ b' ^^^ c' ^^^ d' ^^^ e') := by
  ac_rfl

theorem parity4_xor (a b : DataWord) : parity4 (a ^^^ b) = parity4 a ^^^ parity4 b := by
  simp only [parity4, bit_xor]
  rw [xor_regroup_five, xor_regroup_five, xor_regroup_four, xor_regroup_four, xor_concat, xor_concat, xor_concat]

theorem gbit_xor (m m' : DataWord) (c c' : Parity) : gbit (m ^^^ m') (c ^^^ c') = gbit m c ^^^ gbit m' c' := by
  simp only [gbit, xorReduce_xor]
  ac_rfl

end Sys2Proof.Machine
end

