-- ==== Sys2Proof/Laws/State.lean ====
section
/-! SUPPORT. One lemma per field for each update of State, so that no later proof unfolds a record update. -/

namespace Sys2Proof.Machine

@[simp] theorem State.driveEnc_encData (s : State) (d : DataWord) : (s.driveEnc d).encData = d := rfl
@[simp] theorem State.driveEnc_decCw (s : State) (d : DataWord) : (s.driveEnc d).decCw = s.decCw := rfl
@[simp] theorem State.driveEnc_requests (s : State) (d : DataWord) : (s.driveEnc d).requests = s.requests := rfl
@[simp] theorem State.driveEnc_returned (s : State) (d : DataWord) : (s.driveEnc d).returned = s.returned := rfl

@[simp] theorem State.driveDec_encData (s : State) (cw : Codeword) : (s.driveDec cw).encData = s.encData := rfl
@[simp] theorem State.driveDec_decCw (s : State) (cw : Codeword) : (s.driveDec cw).decCw = cw := rfl
@[simp] theorem State.driveDec_requests (s : State) (cw : Codeword) : (s.driveDec cw).requests = s.requests := rfl
@[simp] theorem State.driveDec_returned (s : State) (cw : Codeword) : (s.driveDec cw).returned = s.returned := rfl

@[simp] theorem State.give_encData (s : State) (v : Value) : (s.give v).encData = s.encData := rfl
@[simp] theorem State.give_decCw (s : State) (v : Value) : (s.give v).decCw = s.decCw := rfl
@[simp] theorem State.give_requests (s : State) (v : Value) : (s.give v).requests = s.requests := rfl
@[simp] theorem State.give_returned (s : State) (v : Value) : (s.give v).returned = s.returned ++ [v] := rfl

/-- Giving a value leaves every port as it was. -/
@[simp] theorem State.give_encCw (s : State) (v : Value) : (s.give v).encCw = s.encCw := rfl
@[simp] theorem State.give_decPorts (s : State) (v : Value) : (s.give v).decPorts = s.decPorts := rfl

/-- The output ports follow the driven input at once (R13). -/
@[simp] theorem State.driveEnc_encCw (s : State) (d : DataWord) : (s.driveEnc d).encCw = evalEnc d := rfl
@[simp] theorem State.driveEnc_decPorts (s : State) (d : DataWord) : (s.driveEnc d).decPorts = s.decPorts := rfl
@[simp] theorem State.driveDec_encCw (s : State) (cw : Codeword) : (s.driveDec cw).encCw = s.encCw := rfl
@[simp] theorem State.driveDec_decPorts (s : State) (cw : Codeword) :
    (s.driveDec cw).decPorts = (evalDec cw).ports := rfl

@[simp] theorem State.reset_encData : State.reset.encData = 0 := rfl
@[simp] theorem State.reset_decCw : State.reset.decCw = 0 := rfl
@[simp] theorem State.reset_requests : State.reset.requests = [] := rfl
@[simp] theorem State.reset_returned : State.reset.returned = [] := rfl

end Sys2Proof.Machine
end

