-- ==== Sys2Proof/Laws/Ops.lean ====
section
/-! SUPPORT. One lemma for each shared operation that says everything it can do: the operand readers, SYN, DEC, the port
reading, and the meaning of DEC. Later proofs cite these and unfold none of them. -/

namespace Sys2Proof

/-- `asDataWord` reads one byte and nothing else. -/
theorem asDataWord_ok_iff (bs : List Byte) (d : DataWord) : asDataWord bs = .ok d ↔ bs = [d] := by
  match bs with
  | [] => simp [asDataWord]
  | [b] => simp [asDataWord]
  | _ :: _ :: _ => simp [asDataWord]

/-- `asBits` reads two bytes whose word fits the width. -/
theorem asBits_ok_iff (width : Nat) (bs : List Byte) (v : BitVec width) :
    asBits width bs = .ok v ↔
      ∃ lo hi : Byte, bs = [lo, hi] ∧ (hi ++ lo : BitVec 16).toNat < 2 ^ width ∧ (hi ++ lo : BitVec 16).setWidth width = v := by
  match bs with
  | [] => simp [asBits]
  | [_] => simp [asBits]
  | [lo, hi] =>
    simp only [asBits]
    split <;> rename_i h
    · constructor
      · intro e
        exact ⟨lo, hi, rfl, h, by simpa using e⟩
      · rintro ⟨lo', hi', e, -, hv⟩
        obtain ⟨rfl, rfl⟩ : lo = lo' ∧ hi = hi' := by simpa using e
        simpa using hv
    · constructor
      · intro e
        cases e
      · rintro ⟨lo', hi', e, hlt, -⟩
        obtain ⟨rfl, rfl⟩ : lo = lo' ∧ hi = hi' := by simpa using e
        exact absurd hlt h
  | _ :: _ :: _ :: _ => simp [asBits]

namespace Machine

/-- The three branches of SYN, with the syndrome range each is taken in. -/
theorem evalSyn_cases (cw : Codeword) :
    (syndromeOf cw = 0#4 ∧
      evalSyn cw = { data := extractM cw, syndrome := syndromeOf cw, correctable := true, cw2 := cw }) ∨
    (syndromeOf cw ≠ 0#4 ∧ outOfRange (syndromeOf cw) = true ∧
      evalSyn cw = { data := 0, syndrome := syndromeOf cw, correctable := false, cw2 := cw }) ∨
    (syndromeOf cw ≠ 0#4 ∧ outOfRange (syndromeOf cw) = false ∧
      evalSyn cw = { data := extractM (flipBit cw (syndromeOf cw).toNat), syndrome := syndromeOf cw, correctable := true,
                     cw2 := flipBit cw (syndromeOf cw).toNat }) := by
  unfold evalSyn
  by_cases h0 : syndromeOf cw = 0#4
  · exact .inl ⟨h0, by simp [h0]⟩
  · cases hr : outOfRange (syndromeOf cw)
    · exact .inr (.inr ⟨h0, rfl, by simp [h0, hr]⟩)
    · exact .inr (.inl ⟨h0, rfl, by simp [h0, hr]⟩)

/-- SYN reports the syndrome of the word it was given, whichever branch it takes. -/
@[simp] theorem evalSyn_syndrome (cw : Codeword) : (evalSyn cw).syndrome = syndromeOf cw := by
  rcases evalSyn_cases cw with ⟨_, h⟩ | ⟨_, _, h⟩ | ⟨_, _, h⟩ <;> rw [h]

/-- The four leaves of DEC's decision tree. -/
theorem evalDec_cases (cw : Codeword) :
    ((evalSyn cw).correctable = false ∧
      evalDec cw = reportUncorrectable .uncorrectableSyndrome 0 (syndromeOf cw)) ∨
    ((evalSyn cw).correctable = true ∧ evalGchk (evalSyn cw).cw2 = false ∧
      evalDec cw = reportUncorrectable .parityMismatchAfterCorrection (evalSyn cw).data (syndromeOf cw)) ∨
    ((evalSyn cw).correctable = true ∧ evalGchk (evalSyn cw).cw2 = true ∧ syndromeOf cw = 0#4 ∧
      evalDec cw =
        { outcome := .clean, data := (evalSyn cw).data, dataValid := true, error := .none, syndrome := 0#4 }) ∨
    ((evalSyn cw).correctable = true ∧ evalGchk (evalSyn cw).cw2 = true ∧ syndromeOf cw ≠ 0#4 ∧
      evalDec cw =
        { outcome := .corrected, data := (evalSyn cw).data, dataValid := true, error := .none,
          syndrome := syndromeOf cw }) := by
  unfold evalDec
  simp only [evalSyn_syndrome]
  cases hc : (evalSyn cw).correctable
  · exact .inl ⟨rfl, by simp⟩
  · cases hg : evalGchk (evalSyn cw).cw2
    · exact .inr (.inl ⟨rfl, rfl, by simp⟩)
    · by_cases h0 : syndromeOf cw = 0#4
      · exact .inr (.inr (.inl ⟨rfl, rfl, h0, by simp [h0]⟩))
      · exact .inr (.inr (.inr ⟨rfl, rfl, h0, by simp [h0]⟩))

/-- A code is read back as the name it was written for. -/
@[simp] theorem OutcomeTag.ofCode_code (o : OutcomeTag) : OutcomeTag.ofCode o.code = some o := by
  cases o <;> decide

@[simp] theorem ErrorCause.ofCode_code (e : ErrorCause) : ErrorCause.ofCode e.code = some e := by
  cases e <;> decide

/-- The environment reads from the ports the record DEC put on them. -/
@[simp] theorem readDecPorts_ports (r : DecResult) : readDecPorts r.ports = .ok r := by
  obtain ⟨o, d, v, e, s⟩ := r
  cases v <;> simp [readDecPorts, DecResult.ports]

/-- DEC's meaning always completes, with DEC of the word driven on dec_cw. -/
theorem execDec_eq (cw : Codeword) (s : State) : execDec cw s = .next ((s.driveDec cw).give (.dec (evalDec cw))) := by
  simp [execDec]

/-- FLIP's meaning: the flipped word for a position of the codeword, the named refusal past it. -/
theorem execFlip_eq (cw : Codeword) (p : Nat) (s : State) :
    execFlip cw p s =
      if p < Config.cwW then .next (s.give (.flip (flipBit cw p))) else .refused .flipPositionUndefined := rfl

end Machine
end Sys2Proof
end

