-- ==== Sys2Proof/Laws/Environment.lean ====
section
/-! SUPPORT. The recursion equations of the environment's sequence functions, for inductions over a stream. -/

namespace Sys2Proof.Machine

@[simp] theorem encodeUnits_nil : encodeUnits [] = [] := rfl

@[simp] theorem encodeUnits_cons (b : Byte) (bs : List Byte) :
    encodeUnits (b :: bs) = toContainer (evalEnc b) :: encodeUnits bs := rfl

@[simp] theorem decodeUnits_nil : decodeUnits [] = [] := rfl

/-- One unit of the decode path: its data if flagged valid, else nothing. -/
theorem decodeUnits_cons (k : Container16) (ks : List Container16) :
    decodeUnits (k :: ks) = (evalDec (ofContainer k)).delivered.toList ++ decodeUnits ks := by
  cases h : (evalDec (ofContainer k)).delivered <;> simp [decodeUnits, h]

@[simp] theorem readContainers_nil (order : ByteOrder) : readContainers order [] = some [] := rfl

@[simp] theorem readContainers_cons_cons (order : ByteOrder) (a b : Byte) (rest : List Byte) :
    readContainers order (a :: b :: rest) = (readContainers order rest).map (containerOfBytes order a b :: ·) := rfl

@[simp] theorem encodeStream_nil (order : ByteOrder) : encodeStream order [] = [] := rfl

@[simp] theorem encodeStream_cons (order : ByteOrder) (b : Byte) (bs : List Byte) :
    encodeStream order (b :: bs) = containerBytes order (toContainer (evalEnc b)) ++ encodeStream order bs := rfl

@[simp] theorem damageUnits_cons (u p : Container16) (us ps : List Container16) :
    damageUnits (u :: us) (p :: ps) = (u ^^^ p) :: damageUnits us ps := rfl

end Sys2Proof.Machine
end

