-- ==== Sys2Proof/Laws/PerInstr.lean ====
section
/-! SUPPORT. The per-instruction family EncodeShape: the request that presents an evaluation selects its own operation
and has as many operand bytes as the operation's format takes (spec/opcode_table.json's widths in whole bytes, and FLIP's
position byte after its codeword). -/

namespace Sys2Proof.Laws

/-- How many operand bytes an operation takes. -/
def operandBytes : Operation → Nat
  | .enc => 1
  | .parity4 => 1
  | .flip => 3
  | .syn => 2
  | .gchk => 2
  | .dec => 2
  | .gbit => 2
  | .assemble => 2
  | .extractM => 2
  | .extractC => 2
  | .extractG => 2
  | .syndrome => 2
  | .container => 2
  | .uncontainer => 2

namespace EncodeShape

/-- The request selects the evaluation's operation and its operand has that operation's length. -/
def Statement (i : Instr) : Prop :=
  (encode i).op = i.op ∧ (encode i).operand.length = operandBytes i.op

theorem enc (d : DataWord) : Statement (.enc d) := ⟨rfl, rfl⟩
theorem syn (cw : Codeword) : Statement (.syn cw) := ⟨rfl, rfl⟩
theorem gchk (cw : Codeword) : Statement (.gchk cw) := ⟨rfl, rfl⟩
theorem dec (cw : Codeword) : Statement (.dec cw) := ⟨rfl, rfl⟩
theorem parity4 (m : DataWord) : Statement (.parity4 m) := ⟨rfl, rfl⟩
theorem gbit (m : DataWord) (c : Parity) : Statement (.gbit m c) := ⟨rfl, rfl⟩
theorem assemble (m : DataWord) (c : Parity) (g : BitVec 1) : Statement (.assemble m c g) := ⟨rfl, rfl⟩
theorem extractM (cw : Codeword) : Statement (.extractM cw) := ⟨rfl, rfl⟩
theorem extractC (cw : Codeword) : Statement (.extractC cw) := ⟨rfl, rfl⟩
theorem extractG (cw : Codeword) : Statement (.extractG cw) := ⟨rfl, rfl⟩
theorem syndrome (cw : Codeword) : Statement (.syndrome cw) := ⟨rfl, rfl⟩
theorem flip (cw : Codeword) (p : Nat) : Statement (.flip cw p) := ⟨rfl, rfl⟩
theorem container (cw : Codeword) : Statement (.container cw) := ⟨rfl, rfl⟩
theorem uncontainer (k : Container16) : Statement (.uncontainer k) := ⟨rfl, rfl⟩

end EncodeShape
end Sys2Proof.Laws
end

