-- ==== Sys2Proof/Laws/Step.lean ====
section
/-! SUPPORT. What a step and an evaluation can do, said once. -/

namespace Sys2Proof.Machine

/-- The value an evaluation returns and the ports it drives, for each operation: every way `exec` answers a next state. -/
theorem exec_next_cases {i : Instr} {s t : State} (h : exec i s = .next t) :
    (∃ d, i = .enc d ∧ t = (s.driveEnc d).give (.enc (evalEnc d))) ∨
    (∃ cw, i = .syn cw ∧ t = (s.driveDec cw).give (.syn (evalSyn cw))) ∨
    (∃ cw, i = .dec cw ∧ t = (s.driveDec cw).give (.dec (evalDec cw))) ∨
    (∃ cw, i = .gchk cw ∧ t = s.give (.gchk (evalGchk cw))) ∨
    (∃ m, i = .parity4 m ∧ t = s.give (.parity4 (parity4 m))) ∨
    (∃ m c, i = .gbit m c ∧ t = s.give (.gbit (gbit m c))) ∨
    (∃ m c g, i = .assemble m c g ∧ t = s.give (.assemble (assemble m c g))) ∨
    (∃ cw, i = .extractM cw ∧ t = s.give (.extractM (extractM cw))) ∨
    (∃ cw, i = .extractC cw ∧ t = s.give (.extractC (extractC cw))) ∨
    (∃ cw, i = .extractG cw ∧ t = s.give (.extractG (extractG cw))) ∨
    (∃ cw, i = .syndrome cw ∧ t = s.give (.syndrome (syndromeOf cw))) ∨
    (∃ cw p, i = .flip cw p ∧ p < Config.cwW ∧ t = s.give (.flip (flipBit cw p))) ∨
    (∃ cw, i = .container cw ∧ t = s.give (.container (toContainer cw))) ∨
    (∃ k, i = .uncontainer k ∧ t = s.give (.uncontainer (ofContainer k))) := by
  cases i with
  | dec cw =>
    have e : execDec cw s = .next t := h
    rw [execDec_eq] at e
    cases e
    simp
  | flip cw p =>
    have e : execFlip cw p s = .next t := h
    rw [execFlip_eq] at e
    split at e <;> cases e
    simp_all
  | _ => cases h; simp [State.driveEnc, State.driveDec, State.encCw]

/-- What a step does: nothing with no request left, a refusal on a request that is no evaluation, else the evaluation. -/
theorem step_cases (s : State) :
    (s.requests = [] ∧ step s = .next s) ∨
    (∃ r rest i, s.requests = r :: rest ∧ decode r = .ok i ∧ step s = exec i { s with requests := rest }) ∨
    (∃ r rest e, s.requests = r :: rest ∧ decode r = .error e ∧ step s = .refused (.undecodable e)) := by
  cases hr : s.requests with
  | nil => exact .inl ⟨rfl, by simp [step, hr]⟩
  | cons r rest =>
    cases hd : decode r with
    | ok i => exact .inr (.inl ⟨r, rest, i, rfl, hd, by simp [step, hr, hd]⟩)
    | error e => exact .inr (.inr ⟨r, rest, e, rfl, hd, by simp [step, hr, hd]⟩)

end Sys2Proof.Machine
end

