-- ==== Sys2Proof/Tests/Slice0.lean ====
section
/-! SUPPORT. Small tests, their expected values from the spec's own examples and tables (95_test_vectors.md, cited by
section), and a witness for the hypotheses of each statement that has some, at the boundaries of its clauses. -/

namespace Sys2Proof.Tests

open Sys2Proof.Machine

/-- The last value returned after an evaluation that completes. -/
def lastValue : Host.Outcome State Fault Refusal → Option Value
  | .next t => t.returned.getLast?
  | .fault _ => none
  | .refused _ => none

/-- The five decoder ports after an evaluation that completes. -/
def portsAfter : Host.Outcome State Fault Refusal → Option DecPorts
  | .next t => some t.decPorts
  | .fault _ => none
  | .refused _ => none

/-- The refusal an outcome is, if it is one. -/
def refusalOf : Host.Outcome State Fault Refusal → Option Refusal
  | .next _ => none
  | .fault _ => none
  | .refused r => some r

/-- The machine with one request waiting. -/
def withRequest (r : Request) : State := { State.reset with requests := [r] }

/-! ### Well-formedness and decoding -/

theorem test_flip_position_13_is_ill_formed : (Instr.flip 0x1EEE 13).wellFormed = false := by decide
theorem test_flip_position_12_is_well_formed : (Instr.flip 0x1EEE 12).wellFormed = true := by decide

/- 0xA5 = 1010_0101 is M7..M0. -/
theorem test_decode_enc : decode ⟨.enc, [0b10100101#8]⟩ = .ok (.enc 0xA5#8) := by rfl
theorem test_decode_parity4 : decode ⟨.parity4, [0b01101001#8]⟩ = .ok (.parity4 0x69#8) := by rfl
/- mmmm_cmmm_cmcc_g of 0x1EE6 is 1_1110_1110_0110: low byte 1110_0110, high byte 0001_1110. -/
theorem test_decode_syn : decode ⟨.syn, [0b11100110#8, 0b00011110#8]⟩ = .ok (.syn 0x1EE6#13) := by rfl
theorem test_decode_gchk : decode ⟨.gchk, [0b11101111#8, 0b00011110#8]⟩ = .ok (.gchk 0x1EEF#13) := by rfl
theorem test_decode_dec : decode ⟨.dec, [0b10011010#8, 0b00001100#8]⟩ = .ok (.dec 0x0C9A#13) := by rfl
/- GBIT: M in bits 11:4, C in bits 3:0; M = 1000_0001, C = 0110 is 1000_0001_0110. -/
theorem test_decode_gbit : decode ⟨.gbit, [0b00010110#8, 0b00001000#8]⟩ = .ok (.gbit 0x81#8 0b0110#4) := by rfl
/- ASSEMBLE: M in bits 12:5, C in 4:1, G in 0; M = 1000_0001, C = 0110, G = 1 is 1_0000_0010_1101. -/
theorem test_decode_assemble :
    decode ⟨.assemble, [0b00101101#8, 0b00010000#8]⟩ = .ok (.assemble 0x81#8 0b0110#4 1#1) := by rfl
theorem test_decode_extract_m : decode ⟨.extractM, [0b11101110#8, 0b00011110#8]⟩ = .ok (.extractM 0x1EEE#13) := by rfl
theorem test_decode_extract_c : decode ⟨.extractC, [0b00000001#8, 0b00010000#8]⟩ = .ok (.extractC 0x1001#13) := by rfl
theorem test_decode_extract_g : decode ⟨.extractG, [0b00000001#8, 0b00000000#8]⟩ = .ok (.extractG 0x0001#13) := by rfl
theorem test_decode_syndrome : decode ⟨.syndrome, [0b11001110#8, 0b00011111#8]⟩ = .ok (.syndrome 0x1FCE#13) := by rfl
theorem test_decode_flip : decode ⟨.flip, [0b11100110#8, 0b00011110#8, 3#8]⟩ = .ok (.flip 0x1EE6#13 3) := by rfl
theorem test_decode_container : decode ⟨.container, [0b11111111#8, 0b00011111#8]⟩ = .ok (.container 0x1FFF#13) := by rfl
theorem test_decode_uncontainer :
    decode ⟨.uncontainer, [0b11101110#8, 0b11111110#8]⟩ = .ok (.uncontainer 0xFEEE#16) := by rfl

theorem test_decode_refuses_bits_above_gbit : decode ⟨.gbit, [0x00#8, 0x10#8]⟩ = .error .bitsAboveFormat := by rfl
theorem test_decode_refuses_position_13 : decode ⟨.flip, [0#8, 0#8, 13#8]⟩ = .error .positionOutOfRange := by rfl
theorem test_decode_refuses_wrong_length : decode ⟨.dec, [0#8]⟩ = .error .operandLength := by rfl

theorem test_table_word_enc : decodeTableWord 8 0xFF = some (.enc 0xFF#8) := by decide
theorem test_table_word_dec : decodeTableWord 16 0x1FFF = some (.dec 0x1FFF#13) := by decide
theorem test_table_word_uncontainer : decodeTableWord 16 0xE000 = some (.uncontainer 0xE000#16) := by decide
theorem test_table_word_too_wide : decodeTableWord 8 0x100 = none := by decide

/-! ### Evaluations: sections 2 to 4 of 95_test_vectors.md -/

theorem test_enc_a5 : lastValue (exec (.enc 0xA5) State.reset) = some (.enc 0x144E) := by decide  -- 2.1
theorem test_enc_48 : lastValue (exec (.enc 0x48) State.reset) = some (.enc 0x0990) := by decide  -- 2.1
theorem test_parity4_69 : lastValue (exec (.parity4 0x69) State.reset) = some (.parity4 0b0101) := by decide  -- 2.1
theorem test_parity4_40 : lastValue (exec (.parity4 0x40) State.reset) = some (.parity4 0b1011) := by decide  -- 2.2
theorem test_gbit_01 : lastValue (exec (.gbit 0x01 0b0011) State.reset) = some (.gbit 1) := by decide  -- R52
theorem test_gbit_ff : lastValue (exec (.gbit 0xFF 0b0011) State.reset) = some (.gbit 0) := by decide  -- R52
theorem test_assemble_ff : lastValue (exec (.assemble 0xFF 0b0011 0) State.reset) = some (.assemble 0x1EEE) := by
  decide  -- R35
theorem test_assemble_f0 : lastValue (exec (.assemble 0xF0 0b0100 1) State.reset) = some (.assemble 0x1E11) := by
  decide  -- 2.1
theorem test_extract_m : lastValue (exec (.extractM 0x0DBA) State.reset) = some (.extractM 0x6B) := by decide  -- P4
theorem test_extract_c : lastValue (exec (.extractC 0x0DBA) State.reset) = some (.extractC 0b1101) := by decide  -- P4
theorem test_extract_g : lastValue (exec (.extractG 0x0C9B) State.reset) = some (.extractG 1) := by decide  -- P4
theorem test_syndrome_13 : lastValue (exec (.syndrome 0x1FCE) State.reset) = some (.syndrome 13) := by decide  -- 3.1
theorem test_syndrome_4 : lastValue (exec (.syndrome 0x1100) State.reset) = some (.syndrome 4) := by decide  -- 3.1
theorem test_flip_3 : lastValue (exec (.flip 0x1EE6 3) State.reset) = some (.flip 0x1EEE) := by decide  -- R62
theorem test_flip_13_refused : refusalOf (exec (.flip 0x1EE6 13) State.reset) = some .flipPositionUndefined := by
  decide  -- I5
theorem test_syn_all_ones : lastValue (exec (.syn 0x1FFF) State.reset) = some (.syn ⟨0x7F, 12, true, 0x0FFF⟩) := by
  decide  -- 3.1
theorem test_syn_refused : lastValue (exec (.syn 0x1555) State.reset) = some (.syn ⟨0x00, 14, false, 0x1555⟩) := by
  decide  -- 3.1
theorem test_gchk_0aaa : lastValue (exec (.gchk 0x0AAA) State.reset) = some (.gchk false) := by decide  -- 3.1
theorem test_gchk_1555 : lastValue (exec (.gchk 0x1555) State.reset) = some (.gchk true) := by decide  -- 3.1
theorem test_dec_miscorrects_all_ones :
    lastValue (exec (.dec 0x1FFF) State.reset) = some (.dec ⟨.corrected, 0x7F, true, .none, 12⟩) := by decide  -- 3.2
theorem test_dec_ports_parity_mismatch :
    portsAfter (exec (.dec 0x0AAA) State.reset) = some ⟨2, 0x5B, 0, 2, 2⟩ := by decide  -- 3.2
theorem test_container : lastValue (exec (.container 0x1FFF) State.reset) = some (.container 0x1FFF) := by decide  -- 4
theorem test_uncontainer : lastValue (exec (.uncontainer 0x2001) State.reset) = some (.uncontainer 0x0001) := by
  decide  -- 4

/-! ### The environment's paths: programs P1 and P3 -/

theorem test_p1_encode_little :
    encodeStream .little [0x48, 0x69, 0x21] = [0x90, 0x09, 0x9A, 0x0C, 0x0A, 0x05] := by decide +kernel
theorem test_p1_encode_big : encodeStream .big [0x48, 0x69, 0x21] = [0x09, 0x90, 0x0C, 0x9A, 0x05, 0x0A] := by decide +kernel
theorem test_p2_decode : decodeUnits [0x0910, 0x0C9E, 0x550A] = [0x48, 0x69, 0x21] := by decide +kernel
theorem test_p3_decode : decodeUnits [0x095C, 0x081A, 0x0972, 0x050B, 0x02A4] = [0x45] := by decide +kernel

/-! ### Parameters and the unused codes -/

theorem test_widths_add_up : Config.dataW + Config.parW + Config.gW = Config.cwW ∧ Config.padW = 3 := by decide  -- R5
theorem test_code_3_is_a_fault : readDecPorts ⟨3, 0, 0, 0, 0⟩ = .error .codeNeverProduced := by rfl  -- I6

/-! ### Witnesses for the statements' hypotheses -/

theorem witness_decode_of_encode : (Instr.flip 0x1FFF 12).wellFormed = true := by decide
theorem witness_encode_of_decode : decode ⟨.dec, [0xFF#8, 0x1F#8]⟩ = .ok (.dec 0x1FFF#13) := by rfl
theorem witness_step_evaluates :
    (withRequest ⟨.enc, [0xA5]⟩).requests = ⟨.enc, [0xA5]⟩ :: [] ∧ decode ⟨.enc, [0xA5#8]⟩ = .ok (.enc 0xA5#8) := ⟨rfl, rfl⟩
theorem witness_step_refuses :
    (withRequest ⟨.flip, [0, 0, 13]⟩).requests = ⟨.flip, [0, 0, 13]⟩ :: [] ∧
      decode ⟨.flip, [0#8, 0#8, 13#8]⟩ = .error .positionOutOfRange := ⟨rfl, rfl⟩
theorem witness_step_idle : State.reset.requests = [] := rfl
theorem witness_placed_table_word : decodeTableWord 16 0 = some (.dec 0#13) := by decide
theorem witness_enc_distinct : (0x00#8 : DataWord) ≠ 0xFF#8 := by decide
theorem witness_position_ranges : 0 < 13 ∧ 12 < 13 ∧ 3 < 4 ∧ 7 < 8 := by decide
theorem witness_flip_positions :
    lastValue (exec (.flip 0x1FFE 0) State.reset) = some (.flip 0x1FFF) ∧
      lastValue (exec (.flip 0x1FFF 12) State.reset) = some (.flip 0x0FFF) ∧ 12 ≤ 12 ∧ 12 < 13 := by decide
theorem witness_single_flip_positions : (1 ≤ 1 ∧ 1 ≤ 12) ∧ (1 ≤ 12 ∧ 12 ≤ 12) ∧ 0 ≤ 12 := by decide
theorem witness_decode_path :
    (evalDec (ofContainer 0xFEEE#16)).dataValid = true ∧ (evalDec (ofContainer 0x2001#16)).dataValid = false := by decide
theorem witness_container_padding : 13 ≤ 13 ∧ 15 < 16 := by decide
/- SYN and DEC: a word in each range of the syndrome, at its ends (0; 1 and 12; 13 and 15). -/
theorem witness_syndrome_ranges :
    syndromeOf 0x1EEF#13 = 0#4 ∧ (syndromeOf 0x1EEC#13).toNat = 1 ∧ (syndromeOf 0x0EEE#13).toNat = 12 ∧
      (syndromeOf 0x1FCE#13).toNat = 13 ∧ (syndromeOf 0x1008#13).toNat = 15 := by decide
theorem witness_syn_nearest :
    (evalSyn 0x1EE6#13).correctable = true ∧ (0x00#8 : DataWord) ≠ extractM (evalSyn 0x1EE6#13).cw2 := by decide
theorem witness_gchk_consistent : syndromeOf 0x1EEF#13 = 0 := by decide
theorem witness_dec_leaves :
    (evalSyn 0x0DBA#13).correctable = false ∧
    ((evalSyn 0x0C90#13).correctable = true ∧ evalGchk (evalSyn 0x0C90#13).cw2 = false) ∧
    ((evalSyn 0x0C9A#13).correctable = true ∧ evalGchk (evalSyn 0x0C9A#13).cw2 = true ∧ syndromeOf 0x0C9A#13 = 0#4) ∧
    ((evalSyn 0x0C1A#13).correctable = true ∧ evalGchk (evalSyn 0x0C1A#13).cw2 = true ∧ syndromeOf 0x0C1A#13 ≠ 0#4) := by
  decide
theorem witness_closed_form_rows :
    ((syndromeOf 0x0000#13).toNat = 0 ∧ xorReduce 0x0000#13 = 0) ∧
    ((syndromeOf 0x0001#13).toNat = 0 ∧ xorReduce 0x0001#13 = 1) ∧
    ((syndromeOf 0x0002#13).toNat = 1 ∧ xorReduce 0x0002#13 = 1) ∧
    ((syndromeOf 0x1001#13).toNat = 12 ∧ xorReduce 0x1001#13 = 0) ∧ (syndromeOf 0x1002#13).toNat = 13 := by decide
theorem witness_payload_causes :
    (evalDec 0x1FCE#13).error = .uncorrectableSyndrome ∧ (evalDec 0x0AAA#13).error = .parityMismatchAfterCorrection ∧
      (evalDec 0x1EEF#13).error = .parityMismatchAfterCorrection ∧ syndromeOf 0x1EEF#13 = 0 := by decide
theorem witness_double_flips :
    (0 < 12 ∧ 12 ≤ 12) ∧ (1 ≤ 4 ∧ 4 < 8 ∧ 4 ^^^ 8 = 12) ∧ (1 ≤ 1 ∧ 1 < 12 ∧ 1 ^^^ 12 = 13) := by decide
theorem witness_error_pattern : (evalDec 0x0003#13).error ≠ .uncorrectableSyndrome := by decide
theorem witness_range_test : 12 < (syndromeOf 0x1FCE#13).toNat ∧ 12 < (syndromeOf (0x1FCE#13 ^^^ 1#13)).toNat := by decide
theorem witness_frame_and_value : ∃ t : State, exec (.dec 0x1FCE) State.reset = .next t := ⟨_, rfl⟩
theorem witness_order : (Instr.enc 0xA5).wellFormed = true ∧ (Instr.flip 0x144E 12).wellFormed = true ∧
    (Instr.enc 0xA5).op ≠ (Instr.flip 0x144E 12).op := by decide
theorem witness_legal_step :
    ({ State.reset with requests := [⟨.dec, [0xEE, 0x1E]⟩], returned := [.enc 0x1EEE] } : State).legal = true ∧
    ∃ t : State,
      step { State.reset with requests := [⟨.dec, [0xEE, 0x1E]⟩], returned := [.enc 0x1EEE] } = .next t :=
  ⟨by decide, _, rfl⟩
theorem test_legal_refuses_a_wrong_codeword : (Value.enc 0x1EEF).legal = false := by decide
theorem witness_odd_stream : ([0x90, 0x09, 0x9A] : List Byte).length % 2 = 1 := by decide
theorem witness_single_flip_stream :
    ([0xE000, 0x1000] : List Container16).length = ([0x48, 0x69] : List Byte).length ∧
      ∀ e ∈ ([0xE000, 0x1000] : List Container16), popcount (ofContainer e) ≤ 1 ∧ bit e 0 = 0 := by
  refine ⟨rfl, ?_⟩
  rw [List.forall_mem_cons, List.forall_mem_singleton]
  decide
theorem witness_two_flip_stream :
    ([0xF001, 0x0120] : List Container16).length = ([0x48, 0x69] : List Byte).length ∧
      ∀ e ∈ ([0xF001, 0x0120] : List Container16), popcount (ofContainer e) ≤ 2 := by
  refine ⟨rfl, ?_⟩
  rw [List.forall_mem_cons, List.forall_mem_singleton]
  decide

end Sys2Proof.Tests
end

/-! PROOFS. The environment's memory contract (spec 20_memory.md R23, R24): what a container's two stream bytes hold, how a
stream is read back, and that both paths must use one byte order. -/

namespace Sys2Proof.Machine

/-! ### Bits of slices, words and containers -/

theorem eq_of_bit_eq {n : Nat} {v w : BitVec n} (h : ∀ i < n, bit v i = bit w i) : v = w := by
  apply BitVec.eq_of_getLsbD_eq
  intro i hi
  simpa [bit] using congrArg (BitVec.getLsbD · 0) (h i hi)

theorem bit_extractLsb' {n : Nat} (v : BitVec n) (start len : Nat) {p : Nat} (hp : p < len) :
    bit (v.extractLsb' start len) p = bit v (start + p) := by
  simp [bit_eq_ofBool, hp]

theorem bit_eq_zero_of_le {n : Nat} (v : BitVec n) {p : Nat} (hp : n ≤ p) : bit v p = 0 := by
  rw [bit_eq_ofBool, BitVec.getLsbD_of_ge v p hp]
  rfl

/-- CONTAINER keeps every bit where it stands (R40), the padding reading as the zeros above the codeword. -/
@[simp] theorem bit_toContainer (cw : Codeword) (p : Nat) : bit (toContainer cw) p = bit cw p := by
  by_cases hp : p < 16
  · simp [bit_eq_ofBool, toContainer, hp]
  · rw [bit_eq_zero_of_le _ (by omega), bit_eq_zero_of_le _ (by omega)]

@[simp] theorem ofContainer_toContainer (cw : Codeword) : ofContainer (toContainer cw) = cw := by
  apply eq_of_bit_eq
  intro p hp
  rw [ofContainer, bit_extractLsb' _ _ _ hp, bit_toContainer, Nat.zero_add]

/-! ### Bits of a concatenation of single bits, as ASSEMBLE and the slices are written -/

@[simp] theorem bit_zero_of_single (b : BitVec 1) : bit b 0 = b := BitVec.extractLsb'_eq_self

@[simp] theorem bit_append_single_zero {n : Nat} (v : BitVec n) (b : BitVec 1) : bit (v ++ b) 0 = b :=
  BitVec.extractLsb'_append_eq_right

@[simp] theorem bit_append_single_succ {n : Nat} (v : BitVec n) (b : BitVec 1) (i : Nat) :
    bit (v ++ b) (i + 1) = bit v i :=
  BitVec.extractLsb'_append_eq_of_le (Nat.le_add_left 1 i)

@[simp] theorem extractM_assemble (m : DataWord) (c : Parity) (g : BitVec 1) : extractM (assemble m c g) = m := by
  apply eq_of_bit_eq
  intro i hi
  interval_cases i <;> simp [extractM, assemble]

@[simp] theorem extractC_assemble (m : DataWord) (c : Parity) (g : BitVec 1) : extractC (assemble m c g) = c := by
  apply eq_of_bit_eq
  intro i hi
  interval_cases i <;> simp [extractC, assemble]

/-! ### Decoding an undamaged codeword -/

@[simp] theorem extractM_evalEnc (d : DataWord) : extractM (evalEnc d) = d := extractM_assemble _ _ _

@[simp] theorem syndromeOf_evalEnc (d : DataWord) : syndromeOf (evalEnc d) = 0#4 := by
  have hc : extractC (evalEnc d) = parity4 d := extractC_assemble _ _ _
  simp [syndromeOf, hc]

@[simp] theorem evalGchk_evalEnc (d : DataWord) : evalGchk (evalEnc d) = true := by
  simp [evalGchk]

theorem evalSyn_evalEnc (d : DataWord) :
    evalSyn (evalEnc d) = { data := d, syndrome := 0#4, correctable := true, cw2 := evalEnc d } := by
  obtain ⟨-, h⟩ | ⟨h0, -⟩ | ⟨h0, -⟩ := evalSyn_cases (evalEnc d)
  · simpa using h
  · exact absurd (syndromeOf_evalEnc d) h0
  · exact absurd (syndromeOf_evalEnc d) h0

/-- R73: the codeword of `d` is Clean with `d`. -/
theorem evalDec_evalEnc (d : DataWord) :
    evalDec (evalEnc d) = { outcome := .clean, data := d, dataValid := true, error := .none, syndrome := 0#4 } := by
  simp [evalDec, evalSyn_evalEnc]

/-! ### A container as two stream bytes -/

@[simp] theorem length_containerBytes (order : ByteOrder) (k : Container16) : (containerBytes order k).length = 2 := by
  cases order <;> rfl

/-- The two bytes of a container at the head of a stream are read back as that container, in the same byte order. -/
@[simp] theorem readContainers_containerBytes_append (order : ByteOrder) (k : Container16) (rest : List Byte) :
    readContainers order (containerBytes order k ++ rest) = (readContainers order rest).map (k :: ·) := by
  have hk : k.extractLsb' 8 8 ++ k.extractLsb' 0 8 = k := BitVec.extractLsb'_append_extractLsb'
  cases order
  case little => simp [containerBytes, containerOfBytes, hk]
  case big => simp [containerBytes, containerOfBytes, hk]

/-! ### The two paths on a whole stream -/

theorem length_encodeStream (order : ByteOrder) (bytes : List Byte) :
    (encodeStream order bytes).length = 2 * bytes.length := by
  induction bytes with
  | nil => rfl
  | cons b bs ih =>
    rw [encodeStream_cons, List.length_append, length_containerBytes, ih, List.length_cons]
    omega

theorem readContainers_encodeStream (order : ByteOrder) (bytes : List Byte) :
    readContainers order (encodeStream order bytes) = some (encodeUnits bytes) := by
  induction bytes with
  | nil => rfl
  | cons b bs ih => simp [ih]

theorem decodeUnits_encodeUnits (bytes : List Byte) : decodeUnits (encodeUnits bytes) = bytes := by
  induction bytes with
  | nil => rfl
  | cons b bs ih => simp [decodeUnits_cons, evalDec_evalEnc, DecResult.delivered, ih]

theorem decodeStream_encodeStream (order : ByteOrder) (bytes : List Byte) :
    decodeStream order (encodeStream order bytes) = some bytes := by
  simp [decodeStream, readContainers_encodeStream, decodeUnits_encodeUnits]

/-- Two different orders swap the bytes of every container: the byte FF, stored as EE 1E or 1E EE, is not read back. -/
theorem decodeStream_encodeStream_ne_of_ne {a b : ByteOrder} (hab : a ≠ b) :
    decodeStream b (encodeStream a [0xFF#8]) ≠ some [0xFF#8] := by
  cases a <;> cases b
  case little.little => exact absurd rfl hab
  case little.big => decide
  case big.little => decide
  case big.big => exact absurd rfl hab

/-- Settles O41: the encode path is read back unit by unit, by induction on the input. -/
theorem encodePathStoresContainersInOrder : Obligations.EncodePathStoresContainersInOrder :=
  fun order bytes =>
    ⟨length_encodeStream order bytes, readContainers_encodeStream order bytes, encodeStream_nil order⟩

/-- Settles O42: each stream byte is a slice of the container, and the byte FF tells two different orders apart. -/
theorem byteOrderOfContainers : Obligations.ByteOrderOfContainers := by
  refine ⟨fun cw => ⟨(toContainer cw).extractLsb' 0 8, (toContainer cw).extractLsb' 8 8, rfl, rfl, ?low, ?high, ?pad⟩,
    fun a b => ⟨?needed, ?enough⟩⟩
  case low =>
    intro p hp
    rw [bit_extractLsb' _ _ _ hp, bit_toContainer, Nat.zero_add]
  case high =>
    intro p hp
    rw [bit_extractLsb' _ _ _ (by omega), bit_toContainer, Nat.add_comm]
  case pad =>
    have padding : ∀ p, 5 ≤ p → p < 8 → bit ((toContainer cw).extractLsb' 8 8) p = 0 := by
      intro p hle hlt
      rw [bit_extractLsb' _ _ _ hlt, bit_toContainer, bit_eq_zero_of_le cw (by omega)]
    exact ⟨padding 5 (by omega) (by omega), padding 6 (by omega) (by omega), padding 7 (by omega) (by omega)⟩
  case needed =>
    intro h
    by_contra hab
    exact decodeStream_encodeStream_ne_of_ne hab (h [0xFF#8])
  case enough =>
    rintro rfl
    exact decodeStream_encodeStream a

end Sys2Proof.Machine

/-! PROOFS. The value formats (spec 30_encoding.md R33 to R36, R39 to R41): the position table read bit by bit, the slices as
its position lists, the container's padding, and which result records DEC gives. -/

namespace Sys2Proof.Machine

/-! ### The position table, and where the slices read -/

/-- R33: each position of an assembled word holds the bit that its role names. -/
theorem bit_assemble (m : DataWord) (c : Parity) (g : BitVec 1) {p : Nat} (hp : p < 13) :
    bit (assemble m c g) p = (positionTable.getD p .overall).bitOf m c g := by
  interval_cases p <;> simp [assemble, positionTable, Role.bitOf]

theorem bit_extractM (cw : Codeword) {i : Nat} (hi : i < 8) : bit (extractM cw) i = bit cw (dataPos.getD i 0) := by
  interval_cases i <;> simp [extractM, dataPos]

theorem bit_extractC (cw : Codeword) {i : Nat} (hi : i < 4) : bit (extractC cw) i = bit cw (parPos.getD i 0) := by
  interval_cases i <;> simp [extractC, parPos]

@[simp] theorem extractG_assemble (m : DataWord) (c : Parity) (g : BitVec 1) : extractG (assemble m c g) = g :=
  bit_assemble m c g (p := 0) (by decide)

/-- R36: each position is read by exactly one slice, and ASSEMBLE puts the bit back where it was. -/
@[simp] theorem assemble_extract (cw : Codeword) : assemble (extractM cw) (extractC cw) (extractG cw) = cw := by
  apply eq_of_bit_eq
  intro p hp
  rw [bit_assemble _ _ _ hp]
  interval_cases p <;>
    simp [positionTable, Role.bitOf, bit_extractM, bit_extractC, dataPos, parPos, extractG]

/-- Settles O13: the layout bit by bit is `bit_assemble`; the table, its scan and its lists are constants. -/
theorem positionTableIsTheLayout : Obligations.PositionTableIsTheLayout :=
  ⟨fun m c g _ hp => bit_assemble m c g hp, rfl, by decide, by decide, by decide, rfl, by decide, by decide, by decide⟩

/-! ### The container's padding -/

theorem bit_ofContainer (k : Container16) {p : Nat} (hp : p < 13) : bit (ofContainer k) p = bit k p := by
  rw [ofContainer, bit_extractLsb' _ _ _ hp, Nat.zero_add]

/-- CONTAINER writes the padding as zero (R40). -/
theorem bit_toContainer_of_le (cw : Codeword) {p : Nat} (hp : 13 ≤ p) : bit (toContainer cw) p = 0 := by
  rw [bit_toContainer, bit_eq_zero_of_le cw hp]

/-- UNCONTAINER reads the low 13 bits and no other. -/
theorem ofContainer_eq_iff (k k' : Container16) :
    ofContainer k = ofContainer k' ↔ ∀ p < 13, bit k p = bit k' p := by
  constructor
  · intro h p hp
    rw [← bit_ofContainer k hp, h, bit_ofContainer k' hp]
  · intro h
    apply eq_of_bit_eq
    intro p hp
    rw [bit_ofContainer k hp, bit_ofContainer k' hp, h p hp]

theorem ofContainer_and_mask (k : Container16) : ofContainer (k &&& 0x1FFF#16) = ofContainer k := by
  rw [ofContainer_eq_iff]
  intro p hp
  have hmask : ∀ q < 13, (0x1FFF#16).getLsbD q = true := by decide
  simp [bit_eq_ofBool, hmask p hp]

/-- R41: a flipped padding bit is not read. -/
theorem ofContainer_xor_padding (k : Container16) {p : Nat} (hp : 13 ≤ p) :
    ofContainer (k ^^^ (1#16 <<< p)) = ofContainer k := by
  rw [ofContainer_eq_iff]
  intro q hq
  have hqp : q < p := by omega
  simp [bit_eq_ofBool, hqp]

/-- R41: writing back what was read gives the same container exactly when its padding was zero. -/
theorem toContainer_ofContainer_eq_iff (k : Container16) :
    toContainer (ofContainer k) = k ↔ bit k 13 = 0 ∧ bit k 14 = 0 ∧ bit k 15 = 0 := by
  constructor
  · intro h
    have hpad (p : Nat) (hp : 13 ≤ p) : bit k p = 0 := h ▸ bit_toContainer_of_le (ofContainer k) hp
    exact ⟨hpad 13 (by decide), hpad 14 (by decide), hpad 15 (by decide)⟩
  · rintro ⟨h13, h14, h15⟩
    apply eq_of_bit_eq
    intro p hp
    by_cases hlow : p < 13
    · rw [bit_toContainer, bit_ofContainer k hlow]
    · rw [bit_toContainer_of_le _ (by omega)]
      obtain rfl | rfl | rfl : p = 13 ∨ p = 14 ∨ p = 15 := by omega
      · exact h13.symm
      · exact h14.symm
      · exact h15.symm

/-- Settles O14: the container's bits are the codeword's, and its padding is zero when written and not read. -/
theorem containerHoldsLow13Bits : Obligations.ContainerHoldsLow13Bits := by
  refine ⟨fun cw s => ⟨toContainer cw, rfl, fun p _ => bit_toContainer cw p, bit_toContainer_of_le cw (by decide),
      bit_toContainer_of_le cw (by decide), bit_toContainer_of_le cw (by decide), ofContainer_toContainer cw, ?written⟩,
    fun k s => ⟨ofContainer k, rfl, fun p hp => bit_ofContainer k hp, (ofContainer_and_mask k).symm,
      toContainer_ofContainer_eq_iff k, ?read⟩, ?dec⟩
  case written =>
    rintro rfl
    decide
  case read =>
    rintro rfl
    decide
  case dec =>
    intro k p s hp _
    rw [ofContainer_xor_padding k hp]

/-! ### Words with a given syndrome -/

theorem syndromeOf_xor (a b : Codeword) : syndromeOf (a ^^^ b) = syndromeOf a ^^^ syndromeOf b := by
  simp only [syndromeOf, extractC_xor, extractM_xor, parity4_xor]
  ac_rfl

@[simp] theorem syndromeOf_assemble (m : DataWord) (c : Parity) (g : BitVec 1) :
    syndromeOf (assemble m c g) = c ^^^ parity4 m := by
  simp [syndromeOf]

/-- A flip at a position adds that position to the syndrome (R61). -/
theorem syndromeOf_flipBit (cw : Codeword) {p : Nat} (hp : p ≤ 12) :
    syndromeOf (flipBit cw p) = syndromeOf cw ^^^ BitVec.ofNat 4 p := by
  have hsingle : ∀ q ≤ 12, syndromeOf (1#13 <<< q) = BitVec.ofNat 4 q := by decide
  rw [flipBit, syndromeOf_xor, hsingle p hp]

@[simp] theorem flipBit_flipBit (cw : Codeword) (p : Nat) : flipBit (flipBit cw p) p = cw := by
  rw [flipBit, flipBit, BitVec.xor_assoc, BitVec.xor_self, BitVec.xor_zero]

@[simp] theorem extractM_flipBit_zero (cw : Codeword) : extractM (flipBit cw 0) = extractM cw :=
  (extractM_xor cw 1#13).trans BitVec.xor_zero

/-- GCHK compares with the stored G, which is what a flip at position 0 inverts. -/
theorem evalGchk_flipBit_zero (cw : Codeword) : evalGchk (flipBit cw 0) = !evalGchk cw := by
  have hg : extractG (flipBit cw 0) = extractG cw ^^^ 1#1 := extractG_xor cw 1#13
  have hne : ∀ a b : BitVec 1, (a == b ^^^ 1#1) = !(a == b) := by decide
  rw [evalGchk, evalGchk, extractM_flipBit_zero, hg, hne]

/-! ### The leaf DEC takes, from the syndrome and the overall-parity test -/

theorem outOfRange_iff (y : Syndrome) : outOfRange y = true ↔ 12 < y.toNat := decide_eq_true_iff

/-- SYN refuses a word exactly when its syndrome is past 12 (R63). -/
theorem evalSyn_correctable_iff (cw : Codeword) :
    (evalSyn cw).correctable = true ↔ (syndromeOf cw).toNat ≤ 12 := by
  obtain ⟨h0, h⟩ | ⟨-, hr, h⟩ | ⟨-, hr, h⟩ := evalSyn_cases cw
  · simp [h, h0]
  · simpa [h] using (outOfRange_iff _).mp hr
  · simpa [h, ← Bool.not_eq_true, outOfRange_iff] using hr

theorem evalDec_of_outOfRange {cw : Codeword} (h : 12 < (syndromeOf cw).toNat) :
    evalDec cw = reportUncorrectable .uncorrectableSyndrome 0 (syndromeOf cw) := by
  have hc : (evalSyn cw).correctable = false := by
    rw [← Bool.not_eq_true, evalSyn_correctable_iff]
    omega
  simp [evalDec, hc]

theorem one_le_toNat_of_ne_zero {y : Syndrome} (h : y ≠ 0#4) : 1 ≤ y.toNat :=
  Nat.one_le_iff_ne_zero.mpr fun hy => h (BitVec.eq_of_toNat_eq hy)

theorem ofNat_position_ne_zero {p : Nat} (h1 : 1 ≤ p) (h12 : p ≤ 12) : BitVec.ofNat 4 p ≠ 0#4 := by
  rw [Ne, ← BitVec.toNat_inj, BitVec.toNat_ofNat, BitVec.toNat_ofNat]
  omega

/-- SYN undoes a flip at a position 1 to 12 of a word with syndrome 0 (R64). -/
theorem evalSyn_flipBit {w : Codeword} (hw : syndromeOf w = 0#4) {p : Nat} (h1 : 1 ≤ p) (h12 : p ≤ 12) :
    evalSyn (flipBit w p) = { data := extractM w, syndrome := BitVec.ofNat 4 p, correctable := true, cw2 := w } := by
  have hs : syndromeOf (flipBit w p) = BitVec.ofNat 4 p := by rw [syndromeOf_flipBit w h12, hw, BitVec.zero_xor]
  have hp : (BitVec.ofNat 4 p).toNat = p := Nat.mod_eq_of_lt (by omega)
  obtain ⟨h0, -⟩ | ⟨-, hr, -⟩ | ⟨-, -, h⟩ := evalSyn_cases (flipBit w p)
  · rw [hs] at h0
    exact absurd h0 (ofNat_position_ne_zero h1 h12)
  · rw [outOfRange_iff, hs, hp] at hr
    omega
  · simpa [hs, hp] using h

/-- R70: one flip at a position 1 to 12 of a word with syndrome 0 is corrected if that word passes GCHK, and is
Uncorrectable by parity if it does not. -/
theorem evalDec_flipBit_of_gchk {w : Codeword} (hw : syndromeOf w = 0#4) (hg : evalGchk w = true) {p : Nat}
    (h1 : 1 ≤ p) (h12 : p ≤ 12) :
    evalDec (flipBit w p) =
      { outcome := .corrected, data := extractM w, dataValid := true, error := .none, syndrome := BitVec.ofNat 4 p } := by
  simp [evalDec, evalSyn_flipBit hw h1 h12, hg, ofNat_position_ne_zero h1 h12]

theorem evalDec_flipBit_of_not_gchk {w : Codeword} (hw : syndromeOf w = 0#4) (hg : evalGchk w = false) {p : Nat}
    (h1 : 1 ≤ p) (h12 : p ≤ 12) :
    evalDec (flipBit w p) =
      reportUncorrectable .parityMismatchAfterCorrection (extractM w) (BitVec.ofNat 4 p) := by
  simp [evalDec, evalSyn_flipBit hw h1 h12, hg]

/-- A codeword whose G bit alone is flipped keeps syndrome 0 and fails GCHK (R74). -/
theorem syndromeOf_flipBit_zero_evalEnc (d : DataWord) : syndromeOf (flipBit (evalEnc d) 0) = 0#4 := by
  rw [syndromeOf_flipBit _ (by decide), syndromeOf_evalEnc]
  rfl

theorem evalGchk_flipBit_zero_evalEnc (d : DataWord) : evalGchk (flipBit (evalEnc d) 0) = false := by
  rw [evalGchk_flipBit_zero, evalGchk_evalEnc]
  rfl

/-- R74's exception (C1): the flipped G bit alone is Uncorrectable by parity, with the data intact. -/
theorem evalDec_flipBit_zero_evalEnc (d : DataWord) :
    evalDec (flipBit (evalEnc d) 0) = reportUncorrectable .parityMismatchAfterCorrection d 0#4 := by
  have hs := syndromeOf_flipBit_zero_evalEnc d
  obtain ⟨-, h⟩ | ⟨h0, -⟩ | ⟨h0, -⟩ := evalSyn_cases (flipBit (evalEnc d) 0)
  · simp [evalDec, h, hs, evalGchk_flipBit_zero_evalEnc]
  · exact absurd hs h0
  · exact absurd hs h0

/-! ### Which records occur (R39) -/

/-- Every syndrome to 12 occurs with the second cause: the G bit of a codeword is flipped, and position `y` as well. -/
theorem exists_parityMismatch (d : DataWord) {y : Syndrome} (hy : y.toNat ≤ 12) :
    ∃ cw : Codeword, evalDec cw = reportUncorrectable .parityMismatchAfterCorrection d y := by
  by_cases h0 : y = 0#4
  · exact ⟨flipBit (evalEnc d) 0, h0 ▸ evalDec_flipBit_zero_evalEnc d⟩
  · refine ⟨flipBit (flipBit (evalEnc d) 0) y.toNat, ?_⟩
    rw [evalDec_flipBit_of_not_gchk (syndromeOf_flipBit_zero_evalEnc d) (evalGchk_flipBit_zero_evalEnc d)
      (one_le_toNat_of_ne_zero h0) hy]
    simp

/-- The record of every word is in one of R39's rows: the leaf of the decision tree is the row. -/
theorem evalDec_row (cw : Codeword) :
    ((evalDec cw).outcome = .clean ∧ (evalDec cw).dataValid = true ∧ (evalDec cw).error = .none ∧
      (evalDec cw).syndrome.toNat = 0) ∨
    ((evalDec cw).outcome = .corrected ∧ (evalDec cw).dataValid = true ∧ (evalDec cw).error = .none ∧
      1 ≤ (evalDec cw).syndrome.toNat ∧ (evalDec cw).syndrome.toNat ≤ 12) ∨
    ((evalDec cw).outcome = .uncorrectable ∧ (evalDec cw).dataValid = false ∧
      (evalDec cw).error = .uncorrectableSyndrome ∧ 13 ≤ (evalDec cw).syndrome.toNat) ∨
    ((evalDec cw).outcome = .uncorrectable ∧ (evalDec cw).dataValid = false ∧
      (evalDec cw).error = .parityMismatchAfterCorrection ∧ (evalDec cw).syndrome.toNat ≤ 12) := by
  have hrange := evalSyn_correctable_iff cw
  obtain ⟨hc, h⟩ | ⟨hc, -, h⟩ | ⟨-, -, -, h⟩ | ⟨hc, -, h0, h⟩ := evalDec_cases cw <;> rw [h]
  case inl =>
    have hpast : 13 ≤ (syndromeOf cw).toNat := by
      by_contra hle
      simp [hrange.mpr (by omega)] at hc
    exact .inr (.inr (.inl ⟨rfl, rfl, rfl, hpast⟩))
  case inr.inl => exact .inr (.inr (.inr ⟨rfl, rfl, rfl, hrange.mp hc⟩))
  case inr.inr.inl => exact .inl ⟨rfl, rfl, rfl, rfl⟩
  case inr.inr.inr =>
    exact .inr (.inl ⟨rfl, rfl, rfl, one_le_toNat_of_ne_zero h0, hrange.mp hc⟩)

/-- Settles O23: the leaf of the decision tree gives the row, and each row has its word: a codeword, a codeword with position
`y` flipped, the bare parity bits `y`, and a codeword with its G bit and position `y` flipped. -/
theorem resultCombinationsAreExactlyFour : Obligations.ResultCombinationsAreExactlyFour := by
  intro o v e y
  constructor
  · rintro ⟨cw, rfl, rfl, rfl, rfl⟩
    exact evalDec_row cw
  · rintro (⟨rfl, rfl, rfl, hy⟩ | ⟨rfl, rfl, rfl, h1, h12⟩ | ⟨rfl, rfl, rfl, hy⟩ | ⟨rfl, rfl, rfl, hy⟩)
    case inl =>
      obtain rfl : y = 0#4 := BitVec.eq_of_toNat_eq hy
      exact ⟨evalEnc 0#8, by simp [evalDec_evalEnc]⟩
    case inr.inl =>
      exact ⟨flipBit (evalEnc 0#8) y.toNat,
        by simp [evalDec_flipBit_of_gchk (syndromeOf_evalEnc _) (evalGchk_evalEnc _) h1 h12]⟩
    case inr.inr.inl =>
      have hs : syndromeOf (assemble 0#8 y 0#1) = y := (syndromeOf_assemble _ _ _).trans BitVec.xor_zero
      exact ⟨assemble 0#8 y 0#1, by simp [evalDec_of_outOfRange (hs.symm ▸ hy), hs, reportUncorrectable]⟩
    case inr.inr.inr =>
      obtain ⟨cw, h⟩ := exists_parityMismatch 0#8 hy
      exact ⟨cw, by simp [h, reportUncorrectable]⟩

/-! ### ASSEMBLE and the slices as evaluations -/

/-- Settles O11: each of the thirteen bits is read off the position table. -/
theorem assembleReturnsLayout : Obligations.AssembleReturnsLayout := by
  intro m c g s
  have hbit (p : Fin 13) : bit (assemble m c g) p = (positionTable.getD p .overall).bitOf m c g :=
    bit_assemble m c g p.isLt
  refine ⟨assemble m c g, rfl, hbit 0, hbit 1, hbit 2, hbit 3, hbit 4, hbit 5, hbit 6, hbit 7, hbit 8, hbit 9, hbit 10,
    hbit 11, hbit 12, ?_⟩
  rintro rfl rfl rfl
  decide

/-- Settles O12: the slices read at the position lists, and the layout lemmas make them and ASSEMBLE inverse. -/
theorem extractsReturnSlices : Obligations.ExtractsReturnSlices := by
  refine ⟨fun cw s => ?_, fun m c g => ⟨extractM_assemble m c g, extractC_assemble m c g, extractG_assemble m c g⟩⟩
  have hm (i : Fin 8) : bit (extractM cw) i = bit cw (dataPos.getD i 0) := bit_extractM cw i.isLt
  have hc (i : Fin 4) : bit (extractC cw) i = bit cw (parPos.getD i 0) := bit_extractC cw i.isLt
  refine ⟨extractM cw, extractC cw, extractG cw, rfl, rfl, rfl, hm 0, hm 1, hm 2, hm 3, hm 4, hm 5, hm 6, hm 7,
    hc 0, hc 1, hc 2, hc 3, rfl, assemble_extract cw, ?_⟩
  rintro rfl
  decide

end Sys2Proof.Machine

/-! PROOFS. The encoder (spec 40_encoder.md R50 to R54, R56): what PARITY4 and GBIT return bit by bit, why functions that are
linear over XOR are fixed by their columns (their values on the words with a single 1 bit), and why a non-zero codeword has
weight at least 4. -/

namespace Sys2Proof.Machine

/-! ### Functions linear over XOR, fixed by their columns -/

/-- `f` takes the XOR of two words to the XOR of their values. -/
def XorLinear {n k : Nat} (f : BitVec n → BitVec k) : Prop :=
  ∀ a b : BitVec n, f (a ^^^ b) = f a ^^^ f b

/-- XOR of the columns `col i` of the 1 bits of `v`, in the shape of the model's folds. -/
def xorColumns {n k : Nat} (col : Nat → BitVec k) (v : BitVec n) : BitVec k :=
  (List.range n).foldl (fun acc i => if v.getLsbD i then acc ^^^ col i else acc) 0#k

theorem xorColumns_congr {n k : Nat} {col col' : Nat → BitVec k} (h : ∀ i < n, col i = col' i) (v : BitVec n) :
    xorColumns col v = xorColumns col' v := by
  apply List.foldl_ext
  intro acc i hi
  rw [h i (List.mem_range.mp hi)]

theorem getLsbD_xor_single_bit {n : Nat} (acc : BitVec n) (i j : Nat) :
    (acc ^^^ 1#n <<< i).getLsbD j = (acc.getLsbD j ^^ (decide (i < n) && decide (i = j))) := by
  rw [BitVec.getLsbD_xor, ← BitVec.twoPow_eq, BitVec.getLsbD_twoPow]

/-- The bits below `k`, each in its place, are the low `k` bits of the word. -/
theorem getLsbD_foldl_single_bits {n : Nat} (v : BitVec n) (k j : Nat) :
    ((List.range k).foldl (fun acc i => if v.getLsbD i then acc ^^^ 1#n <<< i else acc) 0#n).getLsbD j =
      (decide (j < k) && v.getLsbD j) := by
  induction k with
  | zero => simp
  | succ k ih =>
    rw [List.range_succ, List.foldl_concat]
    have hsucc : j < k + 1 ↔ j < k ∨ k = j := by omega
    cases hk : v.getLsbD k
    case false =>
      by_cases hkj : k = j
      · subst hkj
        simp [ih, hk]
      · simp [ih, hsucc, hkj]
    case true =>
      rw [if_pos rfl, getLsbD_xor_single_bit, ih]
      by_cases hkj : k = j
      · subst hkj
        simp [hk, BitVec.lt_of_getLsbD hk]
      · simp [hsucc, hkj]

theorem xorColumns_single_bits {n : Nat} (v : BitVec n) : xorColumns (fun i => 1#n <<< i) v = v := by
  apply BitVec.eq_of_getLsbD_eq
  intro j hj
  rw [xorColumns, getLsbD_foldl_single_bits, decide_eq_true hj, Bool.true_and]

namespace XorLinear

variable {n k : Nat} {f g : BitVec n → BitVec k}

theorem map_zero (hf : XorLinear f) : f 0#n = 0#k := by
  have h : f (0#n ^^^ 0#n) = f 0#n ^^^ f 0#n := hf 0#n 0#n
  rwa [BitVec.xor_self, BitVec.xor_self] at h

theorem eq_xorColumns (hf : XorLinear f) (v : BitVec n) : f v = xorColumns (fun i => f (1#n <<< i)) v := by
  conv_lhs => rw [← xorColumns_single_bits v]
  rw [xorColumns, xorColumns, ← hf.map_zero]
  refine (List.foldl_hom f ?_).symm
  intro acc i
  split
  · exact (hf acc _).symm
  · rfl

/-- Two linear functions with the same columns are the same. -/
theorem eq_of_columns (hf : XorLinear f) (hg : XorLinear g) (h : ∀ i < n, f (1#n <<< i) = g (1#n <<< i)) (v : BitVec n) :
    f v = g v := by
  rw [hf.eq_xorColumns, hg.eq_xorColumns, xorColumns_congr h]

end XorLinear

/-! ### XOR reductions -/

theorem xorReduce_dataWord (m : DataWord) :
    xorReduce m = bit m 0 ^^^ bit m 1 ^^^ bit m 2 ^^^ bit m 3 ^^^ bit m 4 ^^^ bit m 5 ^^^ bit m 6 ^^^ bit m 7 := by
  simp [xorReduce, List.range_succ]

theorem xorReduce_parity (c : Parity) : xorReduce c = bit c 0 ^^^ bit c 1 ^^^ bit c 2 ^^^ bit c 3 := by
  simp [xorReduce, List.range_succ]

/-- ASSEMBLE places each of its operands' bits once. -/
theorem xorReduce_assemble (m : DataWord) (c : Parity) (g : BitVec 1) :
    xorReduce (assemble m c g) = xorReduce m ^^^ xorReduce c ^^^ g := by
  have hcw : xorReduce (assemble m c g) =
      g ^^^ bit c 0 ^^^ bit c 1 ^^^ bit m 0 ^^^ bit c 2 ^^^ bit m 1 ^^^ bit m 2 ^^^ bit m 3 ^^^ bit c 3 ^^^ bit m 4 ^^^
        bit m 5 ^^^ bit m 6 ^^^ bit m 7 := by
    simp [xorReduce, List.range_succ, assemble]
  rw [hcw, xorReduce_dataWord, xorReduce_parity]
  ac_rfl

theorem xorLinear_xorReduce_mask {n : Nat} (mask : BitVec n) : XorLinear fun v => xorReduce (v &&& mask) := by
  intro a b
  have hand : (a ^^^ b) &&& mask = (a &&& mask) ^^^ (b &&& mask) := by
    ext i hi
    simp [Bool.and_xor_distrib_right]
  exact (congrArg xorReduce hand).trans (xorReduce_xor _ _)

/-- The XOR of the bits is the parity of the number of 1 bits. -/
theorem xorReduce_eq_popcount {n : Nat} (v : BitVec n) : xorReduce v = BitVec.ofNat 1 (popcount v) := by
  rw [xorReduce, popcount]
  induction List.range n using List.reverseRecOn with
  | nil => rfl
  | append_singleton is i ih =>
    rw [List.foldl_concat, ih, List.countP_append, BitVec.ofNat_add, BitVec.add_eq_xor, bit_eq_ofBool]
    cases hi : v.getLsbD i <;> simp [hi]

/-! ### PARITY4 (R50, R51) -/

@[simp] theorem bit_parity4_zero (m : DataWord) :
    bit (parity4 m) 0 = bit m 6 ^^^ bit m 4 ^^^ bit m 3 ^^^ bit m 1 ^^^ bit m 0 := by simp [parity4]

@[simp] theorem bit_parity4_one (m : DataWord) :
    bit (parity4 m) 1 = bit m 6 ^^^ bit m 5 ^^^ bit m 3 ^^^ bit m 2 ^^^ bit m 0 := by simp [parity4]

@[simp] theorem bit_parity4_two (m : DataWord) :
    bit (parity4 m) 2 = bit m 7 ^^^ bit m 3 ^^^ bit m 2 ^^^ bit m 1 := by simp [parity4]

@[simp] theorem bit_parity4_three (m : DataWord) :
    bit (parity4 m) 3 = bit m 7 ^^^ bit m 6 ^^^ bit m 5 ^^^ bit m 4 := by simp [parity4]

/-- R50's masks: bit `j` of mask `i` says whether `M_j` is a term of `C_i`. -/
def parityMasks : List DataWord := [0x5B#8, 0x6D#8, 0x8E#8, 0xF0#8]

/-- Both sides are linear, so it is enough that they agree on the eight single data bits. -/
theorem bit_parity4_eq_xorReduce_mask (m : DataWord) {i : Nat} (hi : i < 4) :
    bit (parity4 m) i = xorReduce (m &&& parityMasks.getD i 0) := by
  have hlinear : XorLinear fun v => bit (parity4 v) i := fun a b => by simp only [parity4_xor, bit_xor]
  have hcolumns : ∀ i < 4, ∀ j < 8,
      bit (parity4 (1#8 <<< j)) i = xorReduce (1#8 <<< j &&& parityMasks.getD i 0) := by decide
  exact hlinear.eq_of_columns (xorLinear_xorReduce_mask _) (hcolumns i hi) m

/-- Settles O8: the mask form is linearity, the formulas are PARITY4's bits, and the masks are constants. -/
theorem paritySubsetsFollowPositions : Obligations.ParitySubsetsFollowPositions := by
  have hpositions : ∀ i < 4, ∀ j < 8, (parityMasks.getD i 0).getLsbD j = (dataPos.getD j 0).testBit i := by decide
  exact ⟨fun m _ hi => bit_parity4_eq_xorReduce_mask m hi,
    fun m => ⟨bit_parity4_zero m, bit_parity4_one m, bit_parity4_two m, bit_parity4_three m⟩,
    fun i j hi hj => hpositions i hi j hj, by decide⟩

/-- Settles O7: the four bits are `bit_parity4_zero` to `bit_parity4_three`, and the examples evaluate. -/
theorem parity4ReturnsParityBits : Obligations.Parity4ReturnsParityBits := by
  intro m s
  refine ⟨parity4 m, rfl, bit_parity4_zero m, bit_parity4_one m, bit_parity4_two m, bit_parity4_three m,
    ?_, ?_, ?_, ?_, ?_, ?_, ?_⟩ <;> rintro rfl <;> decide

/-! ### GBIT (R52, R53) -/

/-- R52: the XOR of the twelve terms, in the order of their positions in the codeword. -/
theorem gbit_eq_xor_twelve (m : DataWord) (c : Parity) :
    gbit m c = bit m 7 ^^^ bit m 6 ^^^ bit m 5 ^^^ bit m 4 ^^^ bit c 3 ^^^ bit m 3 ^^^ bit m 2 ^^^ bit m 1 ^^^ bit c 2 ^^^
      bit m 0 ^^^ bit c 1 ^^^ bit c 0 := by
  rw [gbit, xorReduce_dataWord, xorReduce_parity]
  ac_rfl

/-- G makes the whole word even, whatever parity bits it is taken over (R52). -/
theorem xorReduce_assemble_gbit (m : DataWord) (c : Parity) : xorReduce (assemble m c (gbit m c)) = 0 := by
  rw [xorReduce_assemble, gbit, BitVec.xor_self]
  rfl

/-- Settles O9: the twelve terms by `gbit_eq_xor_twelve`, evenness because ASSEMBLE places each bit once. -/
theorem gbitReturnsOverallParity : Obligations.GbitReturnsOverallParity := by
  intro m c s
  refine ⟨gbit m c, rfl, gbit_eq_xor_twelve m c, rfl, xorReduce_assemble_gbit m c, ?_, ?_, ?_⟩ <;>
    rintro rfl rfl <;> decide

theorem xorLinear_gbit_parity4 : XorLinear fun m => gbit m (parity4 m) :=
  fun a b => by simp only [parity4_xor, gbit_xor]

/-- R53: over its own parity bits a data bit counts once and once more per mask that holds it, so `M3` and `M6` drop out. -/
theorem gbit_parity4_eq_xorReduce_mask (m : DataWord) : gbit m (parity4 m) = xorReduce (m &&& 0xB7#8) :=
  xorLinear_gbit_parity4.eq_of_columns (xorLinear_xorReduce_mask _) (by decide) m

theorem gbit_parity4_eq_xor_six (m : DataWord) :
    gbit m (parity4 m) = bit m 7 ^^^ bit m 5 ^^^ bit m 4 ^^^ bit m 2 ^^^ bit m 1 ^^^ bit m 0 := by
  have hsix : XorLinear fun v : DataWord => bit v 7 ^^^ bit v 5 ^^^ bit v 4 ^^^ bit v 2 ^^^ bit v 1 ^^^ bit v 0 := by
    intro a b
    simp only [bit_xor]
    ac_rfl
  exact xorLinear_gbit_parity4.eq_of_columns hsix (by decide) m

/-- Settles O10: both forms of G are linear and have its columns; the masks are constants. -/
theorem gbitOfOwnParity : Obligations.GbitOfOwnParity :=
  fun m => ⟨gbit_parity4_eq_xor_six m, gbit_parity4_eq_xorReduce_mask m, by decide⟩

/-! ### ENC (R54) -/

theorem evalEnc_injective : Function.Injective evalEnc :=
  Function.LeftInverse.injective (g := extractM) extractM_evalEnc

/-- Settles O6: each bit is read off the position table, the parity bits and G by their formulas; the data bits are read back,
so different data words have different codewords. -/
theorem encReturnsCodeword : Obligations.EncReturnsCodeword := by
  refine ⟨fun d s => ?_, fun d d' hne => evalEnc_injective.ne hne⟩
  have hbit (p : Fin 13) : bit (evalEnc d) p = (positionTable.getD p .overall).bitOf d (parity4 d) (gbit d (parity4 d)) :=
    bit_assemble _ _ _ p.isLt
  refine ⟨evalEnc d, { s with encData := d, returned := s.returned ++ [.enc (evalEnc d)] }, rfl, rfl, rfl,
    (hbit 0).trans (gbit_parity4_eq_xor_six d), (hbit 1).trans (bit_parity4_zero d), (hbit 2).trans (bit_parity4_one d),
    hbit 3, (hbit 4).trans (bit_parity4_two d), hbit 5, hbit 6, hbit 7, (hbit 8).trans (bit_parity4_three d), hbit 9,
    hbit 10, hbit 11, hbit 12, rfl, extractM_evalEnc d, ?_, ?_, ?_⟩ <;> rintro rfl <;> decide

/-! ### The code's columns and its codewords (R56) -/

theorem evalEnc_xor (a b : DataWord) : evalEnc (a ^^^ b) = evalEnc a ^^^ evalEnc b := by
  simp only [evalEnc, parity4_xor, gbit_xor, assemble_xor]

@[simp] theorem xorReduce_evalEnc (d : DataWord) : xorReduce (evalEnc d) = 0 := xorReduce_assemble_gbit d (parity4 d)

/-- R56's columns: the codewords of the eight single data bits. -/
def encColumns : List Codeword :=
  [0x000F#13, 0x0033#13, 0x0055#13, 0x0096#13, 0x0303#13, 0x0505#13, 0x0906#13, 0x1111#13]

theorem evalEnc_single_bit : ∀ i < 8, evalEnc (1#8 <<< i) = encColumns.getD i 0 := by decide

theorem evalEnc_eq_xorColumns (d : DataWord) : evalEnc d = xorColumns (encColumns.getD · 0) d := by
  rw [XorLinear.eq_xorColumns evalEnc_xor, xorColumns_congr evalEnc_single_bit]

/-! ### The syndrome as an XOR of positions (R61) -/

/-- The positions 1 to 12 of a word's 1 bits. -/
def onePositions (cw : Codeword) : List Nat := (List.range' 1 12).filter fun p => cw.getLsbD p

/-- The syndrome is linear and its column `p` is `p`; position 0 adds nothing. -/
theorem syndromeOf_toNat_eq_foldl (cw : Codeword) :
    (syndromeOf cw).toNat = (onePositions cw).foldl (fun a p => a ^^^ p) 0 := by
  have hcolumn : ∀ p < 13, (syndromeOf (1#13 <<< p)).toNat = p := by decide
  rw [XorLinear.eq_xorColumns syndromeOf_xor, xorColumns, ← List.foldl_hom BitVec.toNat
    (g₂ := fun a p => if cw.getLsbD p then a ^^^ (syndromeOf (1#13 <<< p)).toNat else a) (by intro a p; split <;> simp)]
  have hrange : List.range 13 = 0 :: List.range' 1 12 := rfl
  rw [hrange, List.foldl_cons, hcolumn 0 (by decide), onePositions, List.foldl_filter]
  simp only [BitVec.toNat_zero, Nat.xor_self, ite_self]
  apply List.foldl_ext
  intro a p hp
  rw [List.mem_range'_1] at hp
  rw [hcolumn p hp.2]

/-! ### The smallest weight of a non-zero codeword (R56) -/

/-- The 1 bits of a slice are those of the word at the slice's positions. -/
theorem popcount_extractLsb' {n : Nat} (v : BitVec n) (start len : Nat) :
    popcount (v.extractLsb' start len) = (List.range' start len).countP fun p => v.getLsbD p := by
  rw [popcount, List.range'_eq_map_range, List.countP_map]
  apply List.countP_congr
  intro i hi
  simp [List.mem_range.mp hi]

/-- The weight of bits 12..1 is the number of positions the syndrome adds up. -/
theorem popcount_extractLsb'_one_twelve (cw : Codeword) :
    popcount (cw.extractLsb' 1 12) = (onePositions cw).length := by
  rw [popcount_extractLsb', List.countP_eq_length_filter, onePositions]

theorem popcount_codeword (cw : Codeword) :
    popcount cw = popcount (cw.extractLsb' 1 12) + if cw.getLsbD 0 then 1 else 0 := by
  rw [popcount_extractLsb', ← List.countP_cons (l := List.range' 1 12)]
  rfl

/-- A word with syndrome 0 has no 1 bit at positions 1 to 12 or at least three: a single position is not 0, and two that
cancel are one. -/
theorem onePositions_of_syndrome_zero {cw : Codeword} (hs : syndromeOf cw = 0#4) :
    onePositions cw = [] ∨ 3 ≤ (onePositions cw).length := by
  have hxor : (onePositions cw).foldl (fun a p => a ^^^ p) 0 = 0 := by rw [← syndromeOf_toNat_eq_foldl, hs]; rfl
  have hnodup : (onePositions cw).Nodup := List.Nodup.filter _ List.nodup_range'
  have hpos : ∀ p ∈ onePositions cw, 1 ≤ p := by
    intro p hp
    exact (List.mem_range'_1.mp (List.mem_of_mem_filter hp)).1
  match h : onePositions cw with
  | [] => exact .inl rfl
  | [p] =>
    have hp : p = 0 := by simpa [h] using hxor
    have hle := hpos p (by simp [h])
    omega
  | [p, q] =>
    have hpq : p = q := by simpa [h] using hxor
    have hne : p ≠ q := by simpa [h] using hnodup
    exact absurd hpq hne
  | p :: q :: r :: ps => exact .inr (by simp)

/-- Bits 12..1 of a codeword hold its data. -/
theorem eq_zero_of_onePositions_evalEnc_eq_nil {d : DataWord} (h : onePositions (evalEnc d) = []) : d = 0#8 := by
  rw [← extractM_evalEnc d]
  apply eq_of_bit_eq
  intro i hi
  have hrange : ∀ j < 8, dataPos.getD j 0 ∈ List.range' 1 12 := by decide
  have hbit := List.filter_eq_nil_iff.mp h _ (hrange i hi)
  rw [bit_extractM _ hi, bit_eq_ofBool, Bool.eq_false_iff.mpr hbit, bit_eq_ofBool, BitVec.getLsbD_zero]

theorem three_le_popcount_evalEnc {d : DataWord} (hd : d ≠ 0#8) : 3 ≤ popcount ((evalEnc d).extractLsb' 1 12) := by
  rw [popcount_extractLsb'_one_twelve]
  obtain hnil | hthree := onePositions_of_syndrome_zero (syndromeOf_evalEnc d)
  · exact absurd (eq_zero_of_onePositions_evalEnc_eq_nil hnil) hd
  · exact hthree

theorem popcount_evalEnc_mod_two (d : DataWord) : popcount (evalEnc d) % 2 = 0 := by
  have h := xorReduce_eq_popcount (evalEnc d)
  rw [xorReduce_evalEnc] at h
  simpa using (congrArg BitVec.toNat h).symm

/-- The G bit makes the weight even, so three 1 bits among bits 12..1 make four in the codeword. -/
theorem four_le_popcount_evalEnc {d : DataWord} (hd : d ≠ 0#8) : 4 ≤ popcount (evalEnc d) := by
  have hthree := three_le_popcount_evalEnc hd
  have heven := popcount_evalEnc_mod_two d
  rw [popcount_codeword] at heven ⊢
  omega

/-- Settles O31: the columns fix ENC by linearity, and the difference of two codewords is a codeword, whose weight its
syndrome 0 and its evenness bound. -/
theorem codeIsLinearWithDistanceFour : Obligations.CodeIsLinearWithDistanceFour := by
  refine ⟨evalEnc_xor, XorLinear.map_zero evalEnc_xor, evalEnc_single_bit, fun d => ?codeword, fun a b hne => ?distance,
    by decide⟩
  case codeword =>
    refine ⟨evalEnc_eq_xorColumns d, xorReduce_evalEnc d, syndromeOf_evalEnc d, ?_⟩
    exact (syndromeOf_toNat_eq_foldl (evalEnc d)).symm.trans (congrArg BitVec.toNat (syndromeOf_evalEnc d))
  case distance =>
    have hxor : a ^^^ b ≠ 0#8 := by rwa [Ne, BitVec.xor_eq_zero_iff]
    rw [← evalEnc_xor]
    exact ⟨four_le_popcount_evalEnc hxor, three_le_popcount_evalEnc hxor⟩

end Sys2Proof.Machine

/-! PROOFS. The decoder (spec 41_decoder.md R61, R65, R70 to R76): the syndrome bit by bit, why SYN leaves the nearest
codeword, and DEC's closed form. A word with syndrome 0 is a codeword when it is even, and a codeword with its G bit flipped
when it is odd, so every word that SYN does not refuse is a codeword damaged in at most two known positions. -/

namespace Sys2Proof.Machine

/-! ### The syndrome's bits (R61) -/

theorem bit_syndromeOf (cw : Codeword) {i : Nat} (hi : i < 4) :
    bit (syndromeOf cw) i = bit cw (parPos.getD i 0) ^^^ bit (parity4 (extractM cw)) i := by
  rw [syndromeOf, bit_xor, bit_extractC cw hi]

theorem bit_syndromeOf_zero (cw : Codeword) :
    bit (syndromeOf cw) 0 = bit cw 1 ^^^ bit cw 3 ^^^ bit cw 5 ^^^ bit cw 7 ^^^ bit cw 9 ^^^ bit cw 11 := by
  simp [bit_syndromeOf, bit_extractM, dataPos, parPos]
  ac_rfl

theorem bit_syndromeOf_one (cw : Codeword) :
    bit (syndromeOf cw) 1 = bit cw 2 ^^^ bit cw 3 ^^^ bit cw 6 ^^^ bit cw 7 ^^^ bit cw 10 ^^^ bit cw 11 := by
  simp [bit_syndromeOf, bit_extractM, dataPos, parPos]
  ac_rfl

theorem bit_syndromeOf_two (cw : Codeword) :
    bit (syndromeOf cw) 2 = bit cw 4 ^^^ bit cw 5 ^^^ bit cw 6 ^^^ bit cw 7 ^^^ bit cw 12 := by
  simp [bit_syndromeOf, bit_extractM, dataPos, parPos]
  ac_rfl

theorem bit_syndromeOf_three (cw : Codeword) :
    bit (syndromeOf cw) 3 = bit cw 8 ^^^ bit cw 9 ^^^ bit cw 10 ^^^ bit cw 11 ^^^ bit cw 12 := by
  simp [bit_syndromeOf, bit_extractM, dataPos, parPos]
  ac_rfl

/-- Settles O15: the bits are PARITY4's formulas read through the slices, the XOR of positions is linearity, and the examples
evaluate. -/
theorem syndromeReturnsXorOfPositions : Obligations.SyndromeReturnsXorOfPositions := by
  refine ⟨fun cw s => ⟨syndromeOf cw, rfl, rfl, bit_syndromeOf_zero cw, bit_syndromeOf_one cw, bit_syndromeOf_two cw,
    bit_syndromeOf_three cw, syndromeOf_toNat_eq_foldl cw, ?_, ?_, ?_, ?_⟩, syndromeOf_xor, syndromeOf_evalEnc,
    by decide⟩ <;>
    rintro rfl <;> decide

/-! ### What SYN does to a word (R64, R65) -/

/-- SYN changes at most one bit, and that at a position 1 to 12. -/
theorem evalSyn_cw2_eq (cw : Codeword) :
    (evalSyn cw).cw2 = cw ∨ ∃ p, 1 ≤ p ∧ p ≤ 12 ∧ (evalSyn cw).cw2 = flipBit cw p := by
  obtain ⟨-, h⟩ | ⟨-, -, h⟩ | ⟨h0, hr, h⟩ := evalSyn_cases cw <;> rw [h]
  case inl => exact .inl rfl
  case inr.inl => exact .inl rfl
  case inr.inr =>
    have h12 : (syndromeOf cw).toNat ≤ 12 := by simpa [← Bool.not_eq_true, outOfRange_iff] using hr
    exact .inr ⟨_, one_le_toNat_of_ne_zero h0, h12, rfl⟩

theorem bit_flipBit_of_ne (cw : Codeword) {p q : Nat} (hpq : p ≠ q) : bit (flipBit cw p) q = bit cw q := by
  rw [flipBit, bit_eq_ofBool, bit_eq_ofBool, getLsbD_xor_single_bit]
  simp [hpq]

theorem bit_evalSyn_cw2_zero (cw : Codeword) : bit (evalSyn cw).cw2 0 = bit cw 0 := by
  obtain h | ⟨p, h1, -, h⟩ := evalSyn_cw2_eq cw <;> rw [h]
  exact bit_flipBit_of_ne cw (by omega)

/-- Flipping the position that the syndrome names leaves syndrome 0. -/
theorem syndromeOf_flipBit_syndromeOf {cw : Codeword} (h : (syndromeOf cw).toNat ≤ 12) :
    syndromeOf (flipBit cw (syndromeOf cw).toNat) = 0#4 := by
  rw [syndromeOf_flipBit cw h, BitVec.ofNat_toNat, BitVec.setWidth_eq, BitVec.xor_self]

theorem syndromeOf_evalSyn_cw2 {cw : Codeword} (hc : (evalSyn cw).correctable = true) :
    syndromeOf (evalSyn cw).cw2 = 0#4 := by
  have h12 := (evalSyn_correctable_iff cw).mp hc
  obtain ⟨h0, h⟩ | ⟨-, -, h⟩ | ⟨-, -, h⟩ := evalSyn_cases cw <;> rw [h] at hc ⊢
  case inl => exact h0
  case inr.inl => cases hc
  case inr.inr => exact syndromeOf_flipBit_syndromeOf h12

theorem syndromeOf_eq_zero_iff (cw : Codeword) : syndromeOf cw = 0#4 ↔ extractC cw = parity4 (extractM cw) :=
  BitVec.xor_eq_zero_iff

/-- A word with syndrome 0 is the codeword of its data but for the G bit. -/
theorem eq_assemble_of_syndrome_zero {w : Codeword} (hw : syndromeOf w = 0#4) :
    w = assemble (extractM w) (parity4 (extractM w)) (extractG w) := by
  conv_lhs => rw [← assemble_extract w, (syndromeOf_eq_zero_iff w).mp hw]

/-- ASSEMBLE puts G at position 0 and nowhere else. -/
theorem extractLsb'_assemble_congr (m : DataWord) (c : Parity) (g g' : BitVec 1) :
    (assemble m c g).extractLsb' 1 12 = (assemble m c g').extractLsb' 1 12 := by
  apply eq_of_bit_eq
  intro i hi
  rw [bit_extractLsb' _ _ _ hi, bit_extractLsb' _ _ _ hi, bit_assemble _ _ _ (by omega), bit_assemble _ _ _ (by omega)]
  interval_cases i <;> rfl

theorem extractLsb'_of_syndrome_zero {w : Codeword} (hw : syndromeOf w = 0#4) :
    w.extractLsb' 1 12 = (evalEnc (extractM w)).extractLsb' 1 12 := by
  conv_lhs => rw [eq_assemble_of_syndrome_zero hw]
  exact extractLsb'_assemble_congr _ _ _ _

/-! ### Distances in bits 12..1 (R65) -/

/-- The triangle inequality of the Hamming distance, by way of `a`. -/
theorem popcount_xor_triangle {n : Nat} (a b c : BitVec n) :
    popcount (b ^^^ c) ≤ popcount (a ^^^ b) + popcount (a ^^^ c) := by
  have hbit : ∀ x y z : Bool,
      (if (y ^^ z) = true then 1 else 0) ≤ (if (x ^^ y) = true then 1 else 0) + (if (x ^^ z) = true then 1 else 0) := by
    decide
  simp only [popcount, BitVec.getLsbD_xor]
  induction List.range n with
  | nil => rfl
  | cons i is ih =>
    have hi := hbit (a.getLsbD i) (b.getLsbD i) (c.getLsbD i)
    simp only [List.countP_cons]
    omega

theorem three_le_distance_evalEnc {a b : DataWord} (hne : a ≠ b) :
    3 ≤ popcount ((evalEnc a).extractLsb' 1 12 ^^^ (evalEnc b).extractLsb' 1 12) := by
  rw [← BitVec.extractLsb'_xor, ← evalEnc_xor]
  exact three_le_popcount_evalEnc (by rwa [Ne, BitVec.xor_eq_zero_iff])

theorem distance_evalSyn_cw2_le_one (cw : Codeword) : popcount ((cw ^^^ (evalSyn cw).cw2).extractLsb' 1 12) ≤ 1 := by
  obtain h | ⟨p, -, h12, h⟩ := evalSyn_cw2_eq cw <;> rw [h]
  case inl =>
    rw [BitVec.xor_self]
    decide
  case inr =>
    have hsingle : ∀ q ≤ 12, popcount ((1#13 <<< q).extractLsb' 1 12) ≤ 1 := by decide
    rw [flipBit, ← BitVec.xor_assoc, BitVec.xor_self, BitVec.zero_xor]
    exact hsingle p h12

/-- R65: SYN moved at most one bit, and any other codeword is at least three from where it arrived, so at least two from the
word received. -/
theorem distance_evalSyn_cw2_lt {cw : Codeword} (hc : (evalSyn cw).correctable = true) {d : DataWord}
    (hd : d ≠ extractM (evalSyn cw).cw2) :
    popcount ((cw ^^^ (evalSyn cw).cw2).extractLsb' 1 12) < popcount ((cw ^^^ evalEnc d).extractLsb' 1 12) := by
  have hone := distance_evalSyn_cw2_le_one cw
  have hthree := three_le_distance_evalEnc hd.symm
  rw [← extractLsb'_of_syndrome_zero (syndromeOf_evalSyn_cw2 hc)] at hthree
  have htriangle := popcount_xor_triangle (cw.extractLsb' 1 12) ((evalSyn cw).cw2.extractLsb' 1 12)
    ((evalEnc d).extractLsb' 1 12)
  rw [← BitVec.extractLsb'_xor (x := cw), ← BitVec.extractLsb'_xor (x := cw)] at htriangle
  omega

/-- Settles O18: a word SYN does not refuse has syndrome 0 after it, and the code's distance 3 in bits 12..1 makes the codeword
one flip away the nearest. -/
theorem synLeavesNearestCodeword : Obligations.SynLeavesNearestCodeword := by
  intro cw
  refine ⟨bit_evalSyn_cw2_zero cw, fun hc => ?_⟩
  have hs := syndromeOf_evalSyn_cw2 hc
  exact ⟨hs, (syndromeOf_eq_zero_iff _).mp hs, extractLsb'_of_syndrome_zero hs, fun _ hd => distance_evalSyn_cw2_lt hc hd⟩

/-! ### DEC's closed form (R76) -/

theorem xorReduce_flipBit (cw : Codeword) {p : Nat} (hp : p ≤ 12) :
    xorReduce (flipBit cw p) = xorReduce cw ^^^ 1#1 := by
  have hsingle : ∀ q ≤ 12, xorReduce (1#13 <<< q) = 1#1 := by decide
  rw [flipBit, xorReduce_xor, hsingle p hp]

/-- On a word with syndrome 0 the stored G is the recomputed one exactly when the word is even. -/
theorem xorReduce_of_syndrome_zero {w : Codeword} (hw : syndromeOf w = 0#4) :
    xorReduce w = extractG (evalEnc (extractM w)) ^^^ extractG w := by
  conv_lhs => rw [eq_assemble_of_syndrome_zero hw, xorReduce_assemble]
  rw [evalEnc, extractG_assemble, gbit]

/-- An even word with syndrome 0 is a codeword. -/
theorem eq_evalEnc_of_even {w : Codeword} (hw : syndromeOf w = 0#4) (he : xorReduce w = 0#1) : w = evalEnc (extractM w) := by
  rw [xorReduce_of_syndrome_zero hw, BitVec.xor_eq_zero_iff, evalEnc, extractG_assemble] at he
  conv_lhs => rw [eq_assemble_of_syndrome_zero hw, ← he]
  rfl

/-- An odd word with syndrome 0 is a codeword with its G bit flipped. -/
theorem eq_flipBit_zero_evalEnc_of_odd {w : Codeword} (hw : syndromeOf w = 0#4) (ho : xorReduce w = 1#1) :
    w = flipBit (evalEnc (extractM w)) 0 := by
  have hs : syndromeOf (flipBit w 0) = 0#4 := by
    rw [syndromeOf_flipBit w (by decide), hw]
    rfl
  have he : xorReduce (flipBit w 0) = 0#1 := by
    rw [xorReduce_flipBit w (by decide), ho]
    rfl
  have hcw := eq_evalEnc_of_even hs he
  rw [extractM_flipBit_zero] at hcw
  rw [← hcw, flipBit_flipBit]

/-- DEC reports the syndrome of the word it was given, whichever leaf it takes. -/
@[simp] theorem evalDec_syndrome (cw : Codeword) : (evalDec cw).syndrome = syndromeOf cw := by
  obtain ⟨-, h⟩ | ⟨-, -, h⟩ | ⟨-, -, h0, h⟩ | ⟨-, -, -, h⟩ := evalDec_cases cw <;> rw [h]
  case inl => rfl
  case inr.inl => rfl
  case inr.inr.inl => exact h0.symm

section
variable {cw : Codeword}

theorem evalDec_of_syndrome_zero_even (hs : syndromeOf cw = 0#4) (he : xorReduce cw = 0#1) :
    evalDec cw =
      { outcome := .clean, data := extractM cw, dataValid := true, error := .none, syndrome := 0#4 } := by
  rw [eq_evalEnc_of_even hs he, evalDec_evalEnc, extractM_evalEnc]

theorem evalDec_of_syndrome_zero_odd (hs : syndromeOf cw = 0#4) (ho : xorReduce cw = 1#1) :
    evalDec cw = reportUncorrectable .parityMismatchAfterCorrection (extractM cw) 0#4 := by
  rw [eq_flipBit_zero_evalEnc_of_odd hs ho, evalDec_flipBit_zero_evalEnc, extractM_flipBit_zero, extractM_evalEnc]

/-- An odd word whose syndrome names a position is a codeword with that position flipped. -/
theorem evalDec_of_position_odd (h1 : 1 ≤ (syndromeOf cw).toNat) (h12 : (syndromeOf cw).toNat ≤ 12)
    (ho : xorReduce cw = 1#1) :
    evalDec cw =
      { outcome := .corrected, data := extractM (flipBit cw (syndromeOf cw).toNat), dataValid := true, error := .none,
        syndrome := syndromeOf cw } := by
  have hs := syndromeOf_flipBit_syndromeOf h12
  have he : xorReduce (flipBit cw (syndromeOf cw).toNat) = 0#1 := by
    rw [xorReduce_flipBit cw h12, ho]
    rfl
  have hg : evalGchk (flipBit cw (syndromeOf cw).toNat) = true := by
    rw [eq_evalEnc_of_even hs he, evalGchk_evalEnc]
  simpa using evalDec_flipBit_of_gchk hs hg h1 h12

/-- An even word whose syndrome names a position is a codeword with that position and its G bit flipped. -/
theorem evalDec_of_position_even (h1 : 1 ≤ (syndromeOf cw).toNat) (h12 : (syndromeOf cw).toNat ≤ 12)
    (he : xorReduce cw = 0#1) :
    evalDec cw =
      reportUncorrectable .parityMismatchAfterCorrection (extractM (flipBit cw (syndromeOf cw).toNat)) (syndromeOf cw) := by
  have hs := syndromeOf_flipBit_syndromeOf h12
  have ho : xorReduce (flipBit cw (syndromeOf cw).toNat) = 1#1 := by
    rw [xorReduce_flipBit cw h12, he]
    rfl
  have hg : evalGchk (flipBit cw (syndromeOf cw).toNat) = false := by
    rw [eq_flipBit_zero_evalEnc_of_odd hs ho, evalGchk_flipBit_zero_evalEnc]
  simpa using evalDec_flipBit_of_not_gchk hs hg h1 h12

end

/-- DEC as an evaluation: it drives dec_cw and returns its record (R70). -/
theorem exec_dec (cw : Codeword) (s : State) :
    exec (.dec cw) s = .next { s with decCw := cw, returned := s.returned ++ [.dec (evalDec cw)] } :=
  execDec_eq cw s

/-- Settles O21: one row for each way the word is a damaged codeword, and the refusal past 12. -/
theorem decClosedForm : Obligations.DecClosedForm := by
  intro cw s
  refine ⟨evalDec cw, exec_dec cw s, evalDec_syndrome cw, fun hs he => ?clean, fun hs ho => ?flippedG,
    fun h1 h12 ho => ?corrected, fun h1 h12 he => ?mismatch, fun h13 => ?refused⟩
  case clean =>
    rw [evalDec_of_syndrome_zero_even (BitVec.eq_of_toNat_eq hs) he]
    exact ⟨rfl, rfl, rfl⟩
  case flippedG =>
    rw [evalDec_of_syndrome_zero_odd (BitVec.eq_of_toNat_eq hs) ho]
    exact ⟨rfl, rfl⟩
  case corrected =>
    rw [evalDec_of_position_odd h1 h12 ho]
    exact ⟨rfl, rfl, rfl⟩
  case mismatch =>
    rw [evalDec_of_position_even h1 h12 he]
    exact ⟨rfl, rfl⟩
  case refused =>
    rw [evalDec_of_outOfRange h13]
    exact ⟨rfl, rfl⟩

/-! ### What an error leaves on dec_data (R71) -/

/-- SYN's data is what its word holds after the flip, unless it refuses (R64). -/
theorem evalSyn_data {cw : Codeword} (hc : (evalSyn cw).correctable = true) :
    (evalSyn cw).data = extractM (evalSyn cw).cw2 := by
  obtain ⟨-, h⟩ | ⟨-, -, h⟩ | ⟨-, -, h⟩ := evalSyn_cases cw <;> rw [h] at hc ⊢
  case inr.inl => cases hc

theorem evalSyn_cw2_of_syndrome_zero {cw : Codeword} (h0 : syndromeOf cw = 0#4) : (evalSyn cw).cw2 = cw := by
  obtain ⟨-, h⟩ | ⟨hne, -⟩ | ⟨hne, -⟩ := evalSyn_cases cw
  · rw [h]
  · exact absurd h0 hne
  · exact absurd h0 hne

/-- Settles O22: each cause is given at one leaf of the decision tree, which also fixes the payload. -/
theorem uncorrectablePayload : Obligations.UncorrectablePayload := by
  intro cw
  obtain ⟨-, h⟩ | ⟨hc, -, h⟩ | ⟨-, -, -, h⟩ | ⟨-, -, -, h⟩ := evalDec_cases cw <;> rw [h]
  case inl => simp [reportUncorrectable, DecResult.decoded, DecResult.delivered]
  case inr.inl =>
    have hzero (h0 : syndromeOf cw = 0#4) : (evalSyn cw).data = extractM cw := by
      rw [evalSyn_data hc, evalSyn_cw2_of_syndrome_zero h0]
    simpa [reportUncorrectable, DecResult.decoded, DecResult.delivered] using ⟨evalSyn_data hc, hzero⟩
  case inr.inr.inl => simp
  case inr.inr.inr => simp

/-! ### No flip and one flip (R73, R74) -/

/-- Settles O25: the codeword of `d` is Clean with `d`, and the ports show that record. -/
theorem roundTripIsClean : Obligations.RoundTripIsClean := by
  intro d s
  refine ⟨_, exec_dec (evalEnc d) s, ?_, ?_⟩
  · rw [evalDec_evalEnc]
  · rw [State.decPorts, evalDec_evalEnc]
    rfl

/-- Settles O26: a flip of a codeword at 1 to 12 is corrected, a flip of its G bit is the parity mismatch, and a flip adds its
position to the syndrome 0. -/
theorem singleFlipIsCorrectedExceptG : Obligations.SingleFlipIsCorrectedExceptG := by
  refine ⟨fun d p s h1 h12 => ?corrected, fun d s => ?flippedG, fun d p h12 => ?syndrome⟩
  case corrected =>
    rw [exec_dec, evalDec_flipBit_of_gchk (syndromeOf_evalEnc d) (evalGchk_evalEnc d) h1 h12, extractM_evalEnc]
  case flippedG =>
    rw [exec_dec, evalDec_flipBit_zero_evalEnc, reportUncorrectable]
  case syndrome =>
    rw [syndromeOf_flipBit _ h12, syndromeOf_evalEnc, BitVec.zero_xor, BitVec.toNat_ofNat]
    omega

end Sys2Proof.Machine

/-! PROOFS. The error causes (spec 60_exceptions.md R85): the range test does not see the G bit. -/

namespace Sys2Proof.Machine

/-- The G bit stands at position 0, which the syndrome does not cover (R61). -/
@[simp] theorem syndromeOf_flipBit_zero (cw : Codeword) : syndromeOf (flipBit cw 0) = syndromeOf cw :=
  (syndromeOf_flipBit cw (Nat.zero_le 12)).trans BitVec.xor_zero

/-- Settles O33: a flip of the G bit keeps the syndrome, so both words stop at the range test with the same record. -/
theorem rangeTestComesFirst : Obligations.RangeTestComesFirst := by
  intro cw s h w hw
  have hsyn : syndromeOf w = syndromeOf cw := by
    obtain rfl | rfl : w = cw ∨ w = flipBit cw 0 := by simpa [flipBit] using hw
    · rfl
    · exact syndromeOf_flipBit_zero cw
  rw [← hsyn] at h ⊢
  rw [exec_dec, evalDec_of_outOfRange h]
  rfl

end Sys2Proof.Machine

/-! PROOFS. Requests and evaluations (opcode_table.json's fields; spec 30_encoding.md R42): the operand readers accept exactly
the bytes `encode` writes, so `decode` and `encode` are inverse on the well-formed evaluations. -/

namespace Sys2Proof

/-! ### Words as two bytes -/

theorem pair_eq_wordBytes_iff {n : Nat} (w : BitVec n) (lo hi : Byte) :
    [lo, hi] = wordBytes w ↔ hi ++ lo = w.setWidth 16 := by
  constructor
  · intro h
    obtain ⟨rfl, rfl⟩ : lo = (w.setWidth 16).extractLsb' 0 8 ∧ hi = (w.setWidth 16).extractLsb' 8 8 := by
      simpa [wordBytes] using h
    exact BitVec.extractLsb'_append_extractLsb'
  · intro h
    rw [wordBytes, ← h, BitVec.extractLsb'_append_eq_right, BitVec.extractLsb'_append_eq_left]

/-- The 16-bit words that read as `w` in a format of `n` bits: `w` with zeros above it. -/
theorem lt_and_setWidth_eq_iff {n : Nat} (hn : n ≤ 16) (k : BitVec 16) (w : BitVec n) :
    (k.toNat < 2 ^ n ∧ k.setWidth n = w) ↔ k = w.setWidth 16 := by
  have hw : w.toNat < 2 ^ n := w.isLt
  have hw16 : w.toNat < 2 ^ 16 := Nat.lt_of_lt_of_le hw (Nat.pow_le_pow_right (by decide) hn)
  simp only [← BitVec.toNat_inj, BitVec.toNat_setWidth, Nat.mod_eq_of_lt hw16]
  constructor
  · rintro ⟨hk, h⟩
    rwa [Nat.mod_eq_of_lt hk] at h
  · intro h
    rw [h]
    exact ⟨hw, Nat.mod_eq_of_lt hw⟩

/-- `asBits` accepts the two bytes that `wordBytes` writes and no other operand. -/
theorem asBits_ok_iff_eq_wordBytes {n : Nat} (hn : n ≤ 16) (bs : List Byte) (w : BitVec n) :
    asBits n bs = .ok w ↔ bs = wordBytes w := by
  rw [asBits_ok_iff]
  constructor
  · rintro ⟨lo, hi, rfl, h⟩
    exact (pair_eq_wordBytes_iff w lo hi).mpr ((lt_and_setWidth_eq_iff hn _ w).mp h)
  · intro h
    exact ⟨_, _, h, (lt_and_setWidth_eq_iff hn _ w).mpr ((pair_eq_wordBytes_iff w _ _).mp rfl)⟩

/-! ### The readers as `decode` uses them -/

theorem except_map_eq_ok_iff {ε α β : Type} (x : Except ε α) (f : α → β) (b : β) :
    x.map f = .ok b ↔ ∃ a, x = .ok a ∧ f a = b := by
  cases x <;> simp [Except.map]

theorem map_asDataWord_ok_iff (bs : List Byte) (f : DataWord → Instr) (i : Instr) :
    (asDataWord bs).map f = .ok i ↔ ∃ d, bs = [d] ∧ f d = i := by
  simp only [except_map_eq_ok_iff, asDataWord_ok_iff]

theorem map_asBits_ok_iff {n : Nat} (hn : n ≤ 16) (bs : List Byte) (f : BitVec n → Instr) (i : Instr) :
    (asBits n bs).map f = .ok i ↔ ∃ w, bs = wordBytes w ∧ f w = i := by
  simp only [except_map_eq_ok_iff, asBits_ok_iff_eq_wordBytes hn]

/-- `asFlip` accepts a codeword's two bytes and the byte of a position of the codeword, and no other operand. -/
theorem asFlip_ok_iff (bs : List Byte) (i : Instr) :
    asFlip bs = .ok i ↔
      ∃ (cw : Codeword) (p : Byte), bs = wordBytes cw ++ [p] ∧ p.toNat < Config.cwW ∧ .flip cw p.toNat = i := by
  match bs with
  | [] => simp [asFlip, wordBytes]
  | [_] => simp [asFlip, wordBytes]
  | [_, _] => simp [asFlip, wordBytes]
  | _ :: _ :: _ :: _ :: _ => simp [asFlip, wordBytes]
  | [lo, hi, p] =>
    have hsplit (cw : Codeword) (q : Byte) : [lo, hi, p] = wordBytes cw ++ [q] ↔ asBits 13 [lo, hi] = .ok cw ∧ p = q := by
      rw [asBits_ok_iff_eq_wordBytes (by decide)]
      simp [wordBytes, and_assoc]
    simp only [hsplit, asFlip]
    cases asBits 13 [lo, hi] with
    | error e => simp
    | ok cw => by_cases hp : p.toNat < Config.cwW <;> simp [hp]

/-! ### Decoding and encoding are inverse -/

theorem decode_encode {i : Instr} (hi : i.wellFormed = true) : decode (encode i) = .ok i := by
  cases i with
  | enc d => exact (map_asDataWord_ok_iff _ _ _).mpr ⟨d, rfl, rfl⟩
  | parity4 m => exact (map_asDataWord_ok_iff _ _ _).mpr ⟨m, rfl, rfl⟩
  | gbit m c =>
    refine (map_asBits_ok_iff (n := 12) (by decide) _ _ _).mpr ⟨m ++ c, rfl, ?_⟩
    rw [BitVec.extractLsb'_append_eq_left, BitVec.extractLsb'_append_eq_right]
  | assemble m c g =>
    refine (map_asBits_ok_iff (n := 13) (by decide) _ _ _).mpr ⟨m ++ c ++ g, rfl, ?_⟩
    have hm : (m ++ c ++ g).extractLsb' 5 8 = m :=
      (BitVec.extractLsb'_append_eq_of_le (by decide)).trans BitVec.extractLsb'_append_eq_left
    have hc : (m ++ c ++ g).extractLsb' 1 4 = c :=
      (BitVec.extractLsb'_append_eq_of_le (by decide)).trans BitVec.extractLsb'_append_eq_right
    rw [hm, hc, BitVec.extractLsb'_append_eq_right]
  | flip cw p =>
    have hp : p < 13 := of_decide_eq_true hi
    have hbyte : (BitVec.ofNat 8 p).toNat = p := Nat.mod_eq_of_lt (by omega)
    refine (asFlip_ok_iff _ _).mpr ⟨cw, BitVec.ofNat 8 p, rfl, ?_, ?_⟩ <;> rw [hbyte]
    exact hp
  | uncontainer k => exact (map_asBits_ok_iff (n := 16) (by decide) _ _ _).mpr ⟨k, rfl, rfl⟩
  | syn cw | gchk cw | dec cw | extractM cw | extractC cw | extractG cw | syndrome cw | container cw =>
    exact (map_asBits_ok_iff (n := 13) (by decide) _ _ _).mpr ⟨cw, rfl, rfl⟩

theorem encode_of_decode {r : Request} {i : Instr} (h : decode r = .ok i) : encode i = r ∧ i.wellFormed = true := by
  obtain ⟨op, bs⟩ := r
  cases op with
  | enc | parity4 =>
    obtain ⟨d, rfl, rfl⟩ := (map_asDataWord_ok_iff _ _ _).mp h
    exact ⟨rfl, rfl⟩
  | gbit =>
    obtain ⟨w, rfl, rfl⟩ := (map_asBits_ok_iff (n := 12) (by decide) _ _ _).mp h
    have hw : w.extractLsb' 4 8 ++ w.extractLsb' 0 4 = w := BitVec.extractLsb'_append_extractLsb'
    exact ⟨by rw [encode, hw], rfl⟩
  | assemble =>
    obtain ⟨w, rfl, rfl⟩ := (map_asBits_ok_iff (n := 13) (by decide) _ _ _).mp h
    have hw : w.extractLsb' 5 8 ++ w.extractLsb' 1 4 ++ w.extractLsb' 0 1 = w := by
      rw [BitVec.extractLsb'_append_extractLsb'_eq_extractLsb' (start₁ := 1) (len₁ := 4) rfl]
      exact BitVec.extractLsb'_append_extractLsb'
    exact ⟨by rw [encode, hw], rfl⟩
  | flip =>
    obtain ⟨cw, p, rfl, hp, rfl⟩ := (asFlip_ok_iff _ _).mp h
    exact ⟨by simp [encode], decide_eq_true hp⟩
  | uncontainer =>
    obtain ⟨k, rfl, rfl⟩ := (map_asBits_ok_iff (n := 16) (by decide) _ _ _).mp h
    exact ⟨rfl, rfl⟩
  | syn | gchk | dec | extractM | extractC | extractG | syndrome | container =>
    obtain ⟨cw, rfl, rfl⟩ := (map_asBits_ok_iff (n := 13) (by decide) _ _ _).mp h
    exact ⟨rfl, rfl⟩

/-- Settles O1: the operand readers accept what `encode` writes, and the two concatenations are cut where they were joined. -/
theorem decodeOfEncodeIsIdentity : Obligations.DecodeOfEncodeIsIdentity :=
  fun _ hi => decode_encode hi

/-- Settles O2: the operand readers accept only what `encode` writes, and FLIP's only a position of the codeword. -/
theorem encodeOfDecodeIsIdentity : Obligations.EncodeOfDecodeIsIdentity :=
  fun _ _ h => encode_of_decode h

end Sys2Proof

/-! PROOFS. Evaluations and steps as a whole (spec 10_state.md R10, R13, R18; 20_memory.md R22, R26; 30_encoding.md R39, R43):
an evaluation drives at most one input port and returns one value, which its operands alone fix. The frame, the order of two
evaluations and the legality of every returned value are read off that one equation. -/

namespace Sys2Proof.Machine

/-! ### An evaluation as the port it drives and the value it returns -/

/-- The value an evaluation returns. -/
def valueOf : Instr → Value
  | .enc d => .enc (evalEnc d)
  | .syn cw => .syn (evalSyn cw)
  | .gchk cw => .gchk (evalGchk cw)
  | .dec cw => .dec (evalDec cw)
  | .parity4 m => .parity4 (parity4 m)
  | .gbit m c => .gbit (gbit m c)
  | .assemble m c g => .assemble (assemble m c g)
  | .extractM cw => .extractM (extractM cw)
  | .extractC cw => .extractC (extractC cw)
  | .extractG cw => .extractG (extractG cw)
  | .syndrome cw => .syndrome (syndromeOf cw)
  | .flip cw p => .flip (flipBit cw p)
  | .container cw => .container (toContainer cw)
  | .uncontainer k => .uncontainer (ofContainer k)

/-- The state with the evaluation's operand on the input port it takes; a helper takes none (R11, R12, R60). -/
def State.driveFor (s : State) : Instr → State
  | .enc d => s.driveEnc d
  | .syn cw => s.driveDec cw
  | .dec cw => s.driveDec cw
  | _ => s

/-- Every evaluation, said once: a well-formed one completes, and FLIP past position 12 is refused by name. -/
theorem exec_eq (i : Instr) (s : State) :
    exec i s =
      if i.wellFormed then .next ((s.driveFor i).give (valueOf i)) else .refused .flipPositionUndefined := by
  cases i with
  | dec cw => exact execDec_eq cw s
  | flip cw p =>
    refine (execFlip_eq cw p s).trans ?_
    by_cases hp : p < Config.cwW <;> simp [Instr.wellFormed, hp, State.driveFor, valueOf]
  | _ => rfl

theorem exec_of_wellFormed {i : Instr} (hi : i.wellFormed = true) (s : State) :
    exec i s = .next ((s.driveFor i).give (valueOf i)) := by
  rw [exec_eq, if_pos hi]

theorem exec_eq_next_iff (i : Instr) (s t : State) :
    exec i s = .next t ↔ i.wellFormed = true ∧ (s.driveFor i).give (valueOf i) = t := by
  rw [exec_eq]
  split <;> rename_i hi <;> simp [hi]

section
variable (s : State) (i : Instr)

@[simp] theorem State.driveFor_requests : (s.driveFor i).requests = s.requests := by cases i <;> rfl

@[simp] theorem State.driveFor_returned : (s.driveFor i).returned = s.returned := by cases i <;> rfl

@[simp] theorem State.give_driveFor (v : Value) : (s.give v).driveFor i = (s.driveFor i).give v := by cases i <;> rfl

end

/-- ENC alone drives enc_data. -/
theorem State.driveFor_encData (s : State) {i : Instr} (hi : i.op ≠ .enc) : (s.driveFor i).encData = s.encData := by
  cases i with
  | enc d => exact absurd rfl hi
  | _ => rfl

/-- DEC and SYN alone drive dec_cw. -/
theorem State.driveFor_decCw (s : State) {i : Instr} (hdec : i.op ≠ .dec) (hsyn : i.op ≠ .syn) :
    (s.driveFor i).decCw = s.decCw := by
  cases i with
  | dec cw => exact absurd rfl hdec
  | syn cw => exact absurd rfl hsyn
  | _ => rfl

/-- The two units have a port each, so what ENC drives and what another evaluation drives do not meet. -/
theorem State.driveFor_comm (s : State) {i j : Instr} (hi : i.op = .enc) (hj : j.op ≠ .enc) :
    (s.driveFor i).driveFor j = (s.driveFor j).driveFor i := by
  cases i with
  | enc d =>
    cases j with
    | enc d' => exact absurd rfl hj
    | _ => rfl
  | _ => cases hi

/-- Settles O35: `exec_eq` has no fault, and its condition is well-formedness. -/
theorem evaluationsCompleteAndNeverFault : Obligations.EvaluationsCompleteAndNeverFault := by
  intro i s
  refine ⟨fun f h => ?_, fun hi => ⟨_, exec_of_wellFormed hi s⟩, fun ⟨t, h⟩ => ((exec_eq_next_iff i s t).mp h).1⟩
  rw [exec_eq] at h
  split at h <;> cases h

/-- Settles O36: only the driven port and the list of values change. -/
theorem evaluationFrame : Obligations.EvaluationFrame := by
  intro i s t h
  obtain ⟨-, rfl⟩ := (exec_eq_next_iff i s t).mp h
  refine ⟨by simp, ⟨valueOf i, by simp⟩, fun henc => ?_, fun hdec hsyn => ?_⟩
  · have hdata := s.driveFor_encData henc
    exact ⟨hdata, congrArg evalEnc hdata⟩
  · have hcw := s.driveFor_decCw hdec hsyn
    exact ⟨hcw, congrArg (fun cw => (evalDec cw).ports) hcw⟩

/-- Settles O37: the value is `valueOf i`, which takes no state. -/
theorem valueDependsOnOperandsAlone : Obligations.ValueDependsOnOperandsAlone := by
  intro i s s' t h
  obtain ⟨hi, rfl⟩ := (exec_eq_next_iff i s t).mp h
  exact ⟨valueOf i, _, exec_of_wellFormed hi s', by simp, by simp⟩

/-- Settles O38: each value is its operands' alone, and the ports of the two units are driven apart. -/
theorem evaluationOrderDoesNotMatter : Obligations.EvaluationOrderDoesNotMatter := by
  intro i j s hi hj
  refine ⟨valueOf i, valueOf j, _, _, _, _, exec_of_wellFormed hi s, exec_of_wellFormed hj _, exec_of_wellFormed hj s,
    exec_of_wellFormed hi _, by simp, by simp, fun henc hne => ?_⟩
  have hcomm : (s.driveFor i).driveFor j = (s.driveFor j).driveFor i := by
    obtain he | he := henc
    · exact s.driveFor_comm he (he ▸ hne.symm)
    · exact (s.driveFor_comm he (he ▸ hne)).symm
  simp [hcomm]

/-! ### Every returned value is legal -/

theorem isCodeword_evalEnc (d : DataWord) : isCodeword (evalEnc d) = true := by simp [isCodeword]

/-- SYN refuses a word exactly when its syndrome fails the range test (R63, R64). -/
theorem outOfRange_syndromeOf (cw : Codeword) : outOfRange (syndromeOf cw) = !(evalSyn cw).correctable := by
  obtain ⟨h0, h⟩ | ⟨-, hr, h⟩ | ⟨-, hr, h⟩ := evalSyn_cases cw <;> rw [h]
  · rw [h0]
    rfl
  · exact hr
  · exact hr

/-- R64 and R65: SYN's result is consistent when it corrects, and names an out-of-range syndrome when it refuses. -/
theorem legal_evalSyn (cw : Codeword) : (evalSyn cw).legal = true := by
  cases hc : (evalSyn cw).correctable
  case true => simp [SynResult.legal, outOfRange_syndromeOf, hc, syndromeOf_evalSyn_cw2 hc, evalSyn_data hc]
  case false =>
    obtain ⟨-, h⟩ | ⟨-, hr, h⟩ | ⟨-, -, h⟩ := evalSyn_cases cw
    · simp [h] at hc
    · simp [SynResult.legal, h, hr]
    · simp [h] at hc

/-- Each leaf of the decision tree is in its row of R39. -/
theorem legal_evalDec (cw : Codeword) : (evalDec cw).legal = true := by
  obtain ⟨hc, h⟩ | ⟨hc, -, h⟩ | ⟨-, -, -, h⟩ | ⟨hc, -, h0, h⟩ := evalDec_cases cw <;> rw [h]
  · simp [DecResult.legal, reportUncorrectable, outOfRange_syndromeOf, hc]
  · simp [DecResult.legal, reportUncorrectable, outOfRange_syndromeOf, hc]
  · simp [DecResult.legal]
  · simp [DecResult.legal, outOfRange_syndromeOf, hc, h0]

theorem legal_valueOf (i : Instr) : (valueOf i).legal = true := by
  cases i with
  | enc d => exact isCodeword_evalEnc d
  | syn cw => exact legal_evalSyn cw
  | dec cw => exact legal_evalDec cw
  | container cw => simp [valueOf, Value.legal, bit_eq_zero_of_le]
  | _ => rfl

theorem State.legal_append {s t : State} {v : Value} (hret : t.returned = s.returned ++ [v]) (hs : s.legal = true)
    (hv : v.legal = true) : t.legal = true := by
  rw [State.legal, hret, List.all_append, Bool.and_eq_true]
  exact ⟨hs, by simpa using hv⟩

/-- Settles O39: a step returns nothing or one value, and every value an evaluation returns is legal. -/
theorem stepKeepsReturnedValuesLegal : Obligations.StepKeepsReturnedValuesLegal := by
  intro s t hs hstep
  obtain ⟨-, h⟩ | ⟨r, rest, i, -, -, h⟩ | ⟨r, rest, e, -, -, h⟩ := step_cases s <;> rw [h] at hstep
  case inl =>
    cases hstep
    exact hs
  case inr.inl =>
    obtain ⟨-, rfl⟩ := (exec_eq_next_iff _ _ _).mp hstep
    exact State.legal_append (by simp) hs (legal_valueOf i)
  case inr.inr => cases hstep

/-! ### The next step -/

theorem step_of_decode_ok {s : State} {r : Request} {rest : List Request} {i : Instr} (hr : s.requests = r :: rest)
    (hd : decode r = .ok i) : step s = exec i { s with requests := rest } := by
  simp [step, hr, hd]

/-- Settles O4: `step` by the head of the list and what it decodes to. -/
theorem stepEvaluatesNextRequest : Obligations.StepEvaluatesNextRequest := by
  refine ⟨fun s r rest i => step_of_decode_ok, fun s r rest e hr hd => ?refused, fun s hr => ?idle⟩
  case refused => simp [step, hr, hd]
  case idle => simp [step, hr]

theorem decodeTableWord_eq_some_iff (nbits w : Nat) (i : Instr) :
    decodeTableWord nbits w = some i ↔ decode (tableRequest nbits w) = .ok i := by
  unfold decodeTableWord
  cases decode (tableRequest nbits w) <;> simp

/-- Settles O5: the placed word's request is the head of the list, and taking it off leaves the state as it was. -/
theorem placedTableWordIsEvaluated : Obligations.PlacedTableWordIsEvaluated :=
  fun _ nbits w i h => step_of_decode_ok rfl ((decodeTableWord_eq_some_iff nbits w i).mp h)

/-- Settles O3: the words evaluate. -/
theorem operandWordsDecode : Obligations.OperandWordsDecode :=
  ⟨rfl, rfl, rfl, rfl, rfl, rfl, rfl, rfl, rfl⟩

/-- Settles O40: the ports at reset show the codeword of 0 and its record, and no request waits. -/
theorem resetIsLegalWithZeroPorts : Obligations.ResetIsLegalWithZeroPorts := by
  have hdec : evalDec 0 = ⟨.clean, 0, true, .none, 0⟩ := evalDec_evalEnc 0
  exact ⟨rfl, XorLinear.map_zero evalEnc_xor, congrArg DecResult.ports hdec, rfl⟩

end Sys2Proof.Machine

/-! PROOFS. The decoder's operations one by one, and its ports (spec 41_decoder.md R62, R64, R66, R70; 10_state.md R12;
60_exceptions.md R80 to R82, R87): SYN and DEC by an equation per branch, GCHK as an XOR of seven bits, and the codes of
whatever record stands on the ports. -/

namespace Sys2Proof.Machine

/-! ### FLIP (R62) -/

theorem bit_flipBit (cw : Codeword) (p : Nat) {q : Nat} (hq : q < 13) :
    bit (flipBit cw p) q = if q = p then ~~~bit cw q else bit cw q := by
  split <;> rename_i h
  · subst h
    rw [flipBit, bit_eq_ofBool, bit_eq_ofBool, getLsbD_xor_single_bit]
    cases cw.getLsbD q <;> simp [hq]
  · exact bit_flipBit_of_ne cw (Ne.symm h)

/-- Settles O16: the two branches of FLIP's meaning, and the flipped word bit by bit. -/
theorem flipInvertsOneBit : Obligations.FlipInvertsOneBit := by
  refine ⟨fun cw p s hp => ⟨flipBit cw p, ?_, fun q hq => bit_flipBit cw p hq, rfl, ?_⟩, fun cw p s hp => ?_⟩
  · exact (execFlip_eq cw p s).trans (if_pos (Nat.lt_succ_of_le hp))
  · rintro rfl rfl
    decide
  · exact (execFlip_eq cw p s).trans (if_neg (Nat.not_lt.mpr hp))

/-! ### SYN, an equation per branch (R64) -/

section
variable {cw : Codeword}

theorem evalSyn_of_syndrome_zero (h : syndromeOf cw = 0#4) :
    evalSyn cw = { data := extractM cw, syndrome := syndromeOf cw, correctable := true, cw2 := cw } := by
  simp [evalSyn, h]

theorem evalSyn_of_outOfRange (h : 12 < (syndromeOf cw).toNat) :
    evalSyn cw = { data := 0, syndrome := syndromeOf cw, correctable := false, cw2 := cw } := by
  have h0 : syndromeOf cw ≠ 0#4 := fun he => by simp [he] at h
  simp [evalSyn, h0, (outOfRange_iff _).mpr h]

theorem evalSyn_of_position (h1 : 1 ≤ (syndromeOf cw).toNat) (h12 : (syndromeOf cw).toNat ≤ 12) :
    evalSyn cw =
      { data := extractM (flipBit cw (syndromeOf cw).toNat), syndrome := syndromeOf cw, correctable := true,
        cw2 := flipBit cw (syndromeOf cw).toNat } := by
  have h0 : syndromeOf cw ≠ 0#4 := fun he => by simp [he] at h1
  have hr : outOfRange (syndromeOf cw) = false := decide_eq_false (Nat.not_lt.mpr h12)
  simp [evalSyn, h0, hr]

end

theorem flipBit_xor (w e : Codeword) (p : Nat) : flipBit (w ^^^ e) p = w ^^^ flipBit e p := BitVec.xor_assoc _ _ _

/-- A word with syndrome 0 goes through SYN untested: it is added to the word, and to the data if there is any. -/
theorem evalSyn_xor_of_syndrome_zero {w : Codeword} (hw : syndromeOf w = 0#4) (e : Codeword) :
    evalSyn (w ^^^ e) =
      { evalSyn e with
        data := if (evalSyn e).correctable then extractM w ^^^ (evalSyn e).data else 0
        cw2 := w ^^^ (evalSyn e).cw2 } := by
  have hs : syndromeOf (w ^^^ e) = syndromeOf e := by rw [syndromeOf_xor, hw, BitVec.zero_xor]
  obtain ⟨h0, h⟩ | ⟨h0, hr, h⟩ | ⟨h0, hr, h⟩ := evalSyn_cases e <;> rw [h]
  · simp [evalSyn, hs, h0, extractM_xor]
  · simp [evalSyn, hs, h0, hr]
  · simp [evalSyn, hs, h0, hr, flipBit_xor, extractM_xor]

/-- EXTRACT_M does not read a parity position (R36). -/
theorem extractM_flipBit_of_mem_parPos (cw : Codeword) {p : Nat} (hp : p ∈ parPos) :
    extractM (flipBit cw p) = extractM cw := by
  have hsingle : ∀ q ∈ parPos, extractM (1#13 <<< q) = 0#8 := by decide
  rw [flipBit, extractM_xor, hsingle p hp, BitVec.xor_zero]

/-- Settles O17: an equation for each branch; a parity position is not read by EXTRACT_M; and the G bit alone is a word with
syndrome 0 and no data. -/
theorem synReturnsTestedWord : Obligations.SynReturnsTestedWord := by
  intro cw s
  refine ⟨evalSyn cw, rfl, evalSyn_syndrome cw, ?_⟩
  rw [evalSyn_syndrome]
  refine ⟨fun h => ?zero, fun h => ?refused, fun h1 h12 => ?position, fun hp => ?parity, ?gBit, ?worked⟩
  case zero => simp [evalSyn_of_syndrome_zero h]
  case refused => simp [evalSyn_of_outOfRange h]
  case position => simp [evalSyn_of_position h1 h12]
  case parity =>
    have hrange : ∀ q ∈ parPos, 1 ≤ q ∧ q ≤ 12 := by decide
    obtain ⟨h1, h12⟩ := hrange _ hp
    rw [evalSyn_of_position h1 h12]
    exact extractM_flipBit_of_mem_parPos cw hp
  case gBit =>
    have hdata : extractM 1#13 = 0#8 := by decide
    rw [BitVec.xor_comm, evalSyn_xor_of_syndrome_zero (by decide) cw, hdata]
    obtain ⟨-, h⟩ | ⟨-, -, h⟩ | ⟨-, -, h⟩ := evalSyn_cases cw <;> simp [h, BitVec.xor_comm 1#13]
  case worked =>
    rintro rfl
    decide

/-! ### GCHK (R66) -/

theorem evalGchk_eq_true_iff (cw : Codeword) : evalGchk cw = true ↔ bit (evalEnc (extractM cw)) 0 = bit cw 0 :=
  beq_iff_eq

/-- GCHK's test, as the stored G against R53's six data bits where they stand in the codeword. -/
theorem ofBool_evalGchk (cw : Codeword) :
    BitVec.ofBool (evalGchk cw) =
      ~~~(bit cw 0 ^^^ bit cw 12 ^^^ bit cw 10 ^^^ bit cw 9 ^^^ bit cw 6 ^^^ bit cw 5 ^^^ bit cw 3) := by
  have hbeq : ∀ a b : BitVec 1, BitVec.ofBool (a == b) = ~~~(b ^^^ a) := by decide
  rw [evalGchk, hbeq, evalEnc, extractG_assemble, gbit_parity4_eq_xor_six]
  simp [bit_extractM, dataPos, extractG, BitVec.xor_assoc]

theorem evalGchk_flipBit_of_mem_parPos (cw : Codeword) {p : Nat} (hp : p ∈ parPos) :
    evalGchk (flipBit cw p) = evalGchk cw := by
  have hne : p ≠ 0 := fun h => absurd (h ▸ hp) (by decide)
  have hg : extractG (flipBit cw p) = extractG cw := bit_flipBit_of_ne cw hne
  rw [evalGchk, evalGchk, extractM_flipBit_of_mem_parPos cw hp, hg]

/-- On a word with syndrome 0 GCHK tests that the whole word is even. -/
theorem evalGchk_iff_even {cw : Codeword} (hs : syndromeOf cw = 0#4) : evalGchk cw = true ↔ xorReduce cw = 0 := by
  rw [xorReduce_of_syndrome_zero hs, evalGchk, beq_iff_eq]
  exact BitVec.xor_eq_zero_iff.symm

/-- Settles O19: GCHK is the comparison of two bits, neither of which reads a parity position. -/
theorem gchkReturnsOverallParityTest : Obligations.GchkReturnsOverallParityTest := by
  intro cw s
  refine ⟨evalGchk cw, rfl, evalGchk_eq_true_iff cw, ofBool_evalGchk cw, fun p hp => evalGchk_flipBit_of_mem_parPos cw hp,
    evalGchk_iff_even, ?_, ?_⟩ <;>
    rintro rfl <;> decide

/-! ### DEC, an equation per leaf (R70) -/

section
variable {cw : Codeword}

theorem evalDec_of_refused (hc : (evalSyn cw).correctable = false) :
    evalDec cw = ⟨.uncorrectable, 0x00#8, false, .uncorrectableSyndrome, syndromeOf cw⟩ := by
  simp [evalDec, reportUncorrectable, hc]

theorem evalDec_of_gchk_false (hc : (evalSyn cw).correctable = true) (hg : evalGchk (evalSyn cw).cw2 = false) :
    evalDec cw = ⟨.uncorrectable, (evalSyn cw).data, false, .parityMismatchAfterCorrection, syndromeOf cw⟩ := by
  simp [evalDec, reportUncorrectable, hc, hg]

theorem evalDec_of_gchk_of_zero (hc : (evalSyn cw).correctable = true) (hg : evalGchk (evalSyn cw).cw2 = true)
    (h0 : syndromeOf cw = 0#4) : evalDec cw = ⟨.clean, (evalSyn cw).data, true, .none, 0#4⟩ := by
  simp [evalDec, hc, hg, h0]

theorem evalDec_of_gchk_of_ne_zero (hc : (evalSyn cw).correctable = true) (hg : evalGchk (evalSyn cw).cw2 = true)
    (h0 : syndromeOf cw ≠ 0#4) : evalDec cw = ⟨.corrected, (evalSyn cw).data, true, .none, syndromeOf cw⟩ := by
  simp [evalDec, hc, hg, h0]

end

/-- Settles O20: an equation for each leaf, and the ports show that record's codes. -/
theorem decReturnsDecisionTreeLeaf : Obligations.DecReturnsDecisionTreeLeaf := by
  intro cw s
  refine ⟨evalDec cw, _, exec_dec cw s, rfl, fun hc => ?refused, fun hc hg => ?mismatch, fun hc hg h0 => ?clean,
    fun hc hg h0 => ?corrected, ?zero, ?worked⟩
  case refused =>
    rw [State.decPorts, evalDec_of_refused hc]
    exact ⟨rfl, rfl⟩
  case mismatch =>
    rw [State.decPorts, evalDec_of_gchk_false hc hg]
    exact ⟨rfl, rfl⟩
  case clean =>
    rw [State.decPorts, evalDec_of_gchk_of_zero hc hg h0]
    exact ⟨rfl, rfl⟩
  case corrected =>
    rw [State.decPorts, evalDec_of_gchk_of_ne_zero hc hg h0]
    exact ⟨rfl, rfl⟩
  case zero =>
    rintro rfl
    exact evalDec_evalEnc 0
  case worked =>
    rintro rfl
    decide

/-- Settles O34: the record of the second word is DEC of that word, whatever the first left on dec_cw. -/
theorem errorLeavesNoTrace : Obligations.ErrorLeavesNoTrace :=
  fun first cw s =>
    ⟨.dec (evalDec cw), _, _, _, exec_dec first s, exec_dec cw _, exec_dec cw s, rfl, rfl, rfl, rfl⟩

/-! ### When DEC reports each cause (R80 to R82) -/

/-- DEC's closed form (R76) as a case split: one row for each syndrome range and parity. -/
theorem evalDec_closed_cases (cw : Codeword) :
    (syndromeOf cw = 0#4 ∧ xorReduce cw = 0#1 ∧
      evalDec cw = { outcome := .clean, data := extractM cw, dataValid := true, error := .none, syndrome := 0#4 }) ∨
    (syndromeOf cw = 0#4 ∧ xorReduce cw = 1#1 ∧
      evalDec cw = reportUncorrectable .parityMismatchAfterCorrection (extractM cw) 0#4) ∨
    (1 ≤ (syndromeOf cw).toNat ∧ (syndromeOf cw).toNat ≤ 12 ∧ xorReduce cw = 1#1 ∧
      evalDec cw =
        { outcome := .corrected, data := extractM (flipBit cw (syndromeOf cw).toNat), dataValid := true, error := .none,
          syndrome := syndromeOf cw }) ∨
    (1 ≤ (syndromeOf cw).toNat ∧ (syndromeOf cw).toNat ≤ 12 ∧ xorReduce cw = 0#1 ∧
      evalDec cw =
        reportUncorrectable .parityMismatchAfterCorrection (extractM (flipBit cw (syndromeOf cw).toNat))
          (syndromeOf cw)) ∨
    (12 < (syndromeOf cw).toNat ∧ evalDec cw = reportUncorrectable .uncorrectableSyndrome 0 (syndromeOf cw)) := by
  by_cases h13 : 12 < (syndromeOf cw).toNat
  · exact .inr (.inr (.inr (.inr ⟨h13, evalDec_of_outOfRange h13⟩)))
  have h12 : (syndromeOf cw).toNat ≤ 12 := Nat.not_lt.mp h13
  by_cases h0 : syndromeOf cw = 0#4
  · obtain he | ho := BitVec.eq_zero_or_eq_one (xorReduce cw)
    · exact .inl ⟨h0, he, evalDec_of_syndrome_zero_even h0 he⟩
    · exact .inr (.inl ⟨h0, ho, evalDec_of_syndrome_zero_odd h0 ho⟩)
  · have h1 := one_le_toNat_of_ne_zero h0
    obtain he | ho := BitVec.eq_zero_or_eq_one (xorReduce cw)
    · exact .inr (.inr (.inr (.inl ⟨h1, h12, he, evalDec_of_position_even h1 h12 he⟩)))
    · exact .inr (.inr (.inl ⟨h1, h12, ho, evalDec_of_position_odd h1 h12 ho⟩))

theorem evalDec_error_uncorrectableSyndrome_iff (cw : Codeword) :
    (evalDec cw).error = .uncorrectableSyndrome ↔ 12 < (syndromeOf cw).toNat := by
  obtain ⟨h0, -, h⟩ | ⟨h0, -, h⟩ | ⟨-, h12, -, h⟩ | ⟨-, h12, -, h⟩ | ⟨h13, h⟩ := evalDec_closed_cases cw <;> rw [h]
  · simp [h0]
  · simp [h0, reportUncorrectable]
  · simpa using h12
  · simpa [reportUncorrectable] using h12
  · simpa [reportUncorrectable] using h13

theorem evalDec_error_parityMismatch_iff (cw : Codeword) :
    (evalDec cw).error = .parityMismatchAfterCorrection ↔
      ((syndromeOf cw).toNat = 0 ∧ xorReduce cw = 1) ∨
      (1 ≤ (syndromeOf cw).toNat ∧ (syndromeOf cw).toNat ≤ 12 ∧ xorReduce cw = 0) := by
  obtain ⟨h0, hx, h⟩ | ⟨h0, hx, h⟩ | ⟨h1, -, hx, h⟩ | ⟨h1, h12, hx, h⟩ | ⟨h13, h⟩ := evalDec_closed_cases cw <;> rw [h]
  · simp [h0, hx]
  · simp [h0, hx, reportUncorrectable]
  · have hne : (syndromeOf cw).toNat ≠ 0 := by omega
    simp [hx, hne]
  · simp [hx, h1, h12, reportUncorrectable]
  · have hne : (syndromeOf cw).toNat ≠ 0 := by omega
    have hgt : ¬(syndromeOf cw).toNat ≤ 12 := by omega
    simp [reportUncorrectable, hne, hgt]

/-! ### The codes on the ports (R12, R38, R83) -/

theorem code_outcome_eq_two_iff (o : OutcomeTag) : o.code = 2#2 ↔ o = .uncorrectable := by cases o <;> decide

theorem code_error_eq_one_iff (e : ErrorCause) : e.code = 1#2 ↔ e = .uncorrectableSyndrome := by cases e <;> decide

theorem code_error_eq_two_iff (e : ErrorCause) : e.code = 2#2 ↔ e = .parityMismatchAfterCorrection := by
  cases e <;> decide

/-- What the two code ports and the valid flag show together. -/
theorem ports_codes (cw : Codeword) :
    (evalDec cw).ports.outcome ≠ 3#2 ∧ (evalDec cw).ports.error ≠ 3#2 ∧
    ((evalDec cw).ports.dataValid = 0#1 ↔ (evalDec cw).ports.outcome = 2#2) ∧
    ((evalDec cw).ports.error ≠ 0#2 ↔ (evalDec cw).ports.outcome = 2#2) := by
  simp only [DecResult.ports]
  obtain ⟨ho, hv, he, -⟩ | ⟨ho, hv, he, -⟩ | ⟨ho, hv, he, -⟩ | ⟨ho, hv, he, -⟩ := evalDec_row cw <;>
    rw [ho, hv, he] <;> decide

/-- Settles O24: the codes are those of a row of R39, and the other ports are ENC's and DEC's values. -/
theorem portsOfEveryState : Obligations.PortsOfEveryState := by
  intro s
  obtain ⟨ho, he, hv, hu⟩ := ports_codes s.decCw
  exact ⟨ho, he, hv, hu, evalDec_syndrome s.decCw, extractM_evalEnc s.encData, syndromeOf_evalEnc s.encData,
    xorReduce_evalEnc s.encData, readDecPorts_ports _⟩

/-- Settles O32: the code on dec_error names the cause, and R71's payload stands beside it. -/
theorem errorCauseConditions : Obligations.ErrorCauseConditions := by
  intro cw s
  obtain ⟨hsyndrome, hparity, huncorrectable⟩ := uncorrectablePayload cw
  refine ⟨_, exec_dec cw s, ?_⟩
  simp only [State.decPorts, DecResult.ports, code_outcome_eq_two_iff, code_error_eq_one_iff, code_error_eq_two_iff]
  refine ⟨evalDec_error_uncorrectableSyndrome_iff cw, evalDec_error_parityMismatch_iff cw, fun h => ?range, fun h => ?parity,
    ?outcome⟩
  case range =>
    obtain ⟨hd, hv⟩ := hsyndrome h
    obtain ⟨ho, -⟩ := huncorrectable (by simp [h])
    simp [ho, hd, hv, h, OutcomeTag.code, ErrorCause.code]
  case parity =>
    obtain ⟨hd, hv, -⟩ := hparity h
    obtain ⟨ho, -⟩ := huncorrectable (by simp [h])
    simp [ho, hd, hv, h, OutcomeTag.code, ErrorCause.code]
  case outcome =>
    obtain ⟨ho, -, he, -⟩ | ⟨ho, -, he, -⟩ | ⟨ho, -, he, -⟩ | ⟨ho, -, he, -⟩ := evalDec_row cw <;> simp [ho, he]

end Sys2Proof.Machine

/-! PROOFS. Words by the positions of their 1 bits (spec 00_scope.md R6): a word and the ascending list of its positions fix
each other, so a statement about all patterns of a given weight is one about the position lists of that length. -/

namespace Sys2Proof.Machine

/-- The positions of a word's 1 bits, ascending. -/
def oneBits {n : Nat} (v : BitVec n) : List Nat := (List.range n).filter fun i => v.getLsbD i

/-- The word with the bits at the given positions inverted, from zero. -/
def wordOfBits (n : Nat) (ps : List Nat) : BitVec n := ps.foldl (fun acc i => acc ^^^ 1#n <<< i) 0#n

section
variable {n : Nat}

theorem length_oneBits (v : BitVec n) : (oneBits v).length = popcount v := List.countP_eq_length_filter.symm

theorem oneBits_sublist (v : BitVec n) : (oneBits v).Sublist (List.range n) := List.filter_sublist

@[simp] theorem wordOfBits_oneBits (v : BitVec n) : wordOfBits n (oneBits v) = v := by
  rw [wordOfBits, oneBits, List.foldl_filter]
  exact xorColumns_single_bits v

theorem oneBits_injective : Function.Injective (oneBits (n := n)) :=
  Function.LeftInverse.injective wordOfBits_oneBits

theorem getLsbD_foldl_flips {ps : List Nat} (hps : ps.Nodup) (acc : BitVec n) {j : Nat} (hj : j < n) :
    (ps.foldl (fun acc i => acc ^^^ 1#n <<< i) acc).getLsbD j = (acc.getLsbD j ^^ decide (j ∈ ps)) := by
  induction ps generalizing acc with
  | nil => simp
  | cons p ps ih =>
    obtain ⟨hp, hps⟩ := List.nodup_cons.mp hps
    rw [List.foldl_cons, ih hps, getLsbD_xor_single_bit]
    by_cases hpj : p = j
    · subst hpj
      simp [hp, hj]
    · simp [hpj, Ne.symm hpj]

theorem filter_mem_of_sublist {α : Type} [DecidableEq α] {l ps : List α} (hl : l.Nodup) (h : ps.Sublist l) :
    (l.filter fun x => decide (x ∈ ps)) = ps := by
  induction h with
  | slnil => rfl
  | @cons ps l a h ih =>
    obtain ⟨ha, hl⟩ := List.nodup_cons.mp hl
    rw [List.filter_cons_of_neg (by simpa using fun hmem => ha (h.subset hmem)), ih hl]
  | @cons_cons ps l a h ih =>
    obtain ⟨ha, hl⟩ := List.nodup_cons.mp hl
    rw [List.filter_cons_of_pos (by simp)]
    congr 1
    refine Eq.trans (List.filter_congr fun x hx => ?_) (ih hl)
    have hxa : x ≠ a := fun hxa => ha (hxa ▸ hx)
    simp [hxa]

theorem oneBits_wordOfBits {ps : List Nat} (h : ps.Sublist (List.range n)) : oneBits (wordOfBits n ps) = ps := by
  refine Eq.trans (List.filter_congr fun j hj => ?_) (filter_mem_of_sublist List.nodup_range h)
  rw [wordOfBits, getLsbD_foldl_flips (h.nodup List.nodup_range) _ (List.mem_range.mp hj)]
  simp

end

/-! ### All words, and those of one weight -/

/-- Every word of `n` bits once, in the order of its value. -/
def allWords (n : Nat) : List (BitVec n) := (List.range (2 ^ n)).map (BitVec.ofNat n)

theorem mem_allWords {n : Nat} (v : BitVec n) : v ∈ allWords n :=
  List.mem_map.mpr ⟨v.toNat, List.mem_range.mpr v.isLt, by simp⟩

theorem length_allWords (n : Nat) : (allWords n).length = 2 ^ n := by simp [allWords]

theorem nodup_allWords (n : Nat) : (allWords n).Nodup := by
  refine List.Nodup.map_on (fun a ha b hb h => ?_) List.nodup_range
  rw [List.mem_range] at ha hb
  have hnat := congrArg BitVec.toNat h
  rwa [BitVec.toNat_ofNat, BitVec.toNat_ofNat, Nat.mod_eq_of_lt ha, Nat.mod_eq_of_lt hb] at hnat

/-- The words of weight `k` are those of the position lists of length `k`. -/
theorem oneBits_words_of_weight_perm (n k : Nat) :
    (((allWords n).filter fun v => popcount v == k).map oneBits).Perm (List.sublistsLen k (List.range n)) := by
  have hnodup := ((nodup_allWords n).filter fun v => popcount v == k).map oneBits_injective
  rw [List.perm_ext_iff_of_nodup hnodup (List.nodup_sublistsLen k List.nodup_range)]
  intro ps
  simp only [List.mem_map, List.mem_filter, beq_iff_eq, List.mem_sublistsLen]
  constructor
  · rintro ⟨v, ⟨-, hk⟩, rfl⟩
    exact ⟨oneBits_sublist v, (length_oneBits v).trans hk⟩
  · rintro ⟨hsub, hk⟩
    have hps := oneBits_wordOfBits hsub
    exact ⟨wordOfBits n ps, ⟨mem_allWords _, by rw [← length_oneBits, hps, hk]⟩, hps⟩

theorem length_words_of_weight (n k : Nat) : ((allWords n).filter fun v => popcount v == k).length = n.choose k := by
  rw [← List.length_map oneBits, (oneBits_words_of_weight_perm n k).length_eq, List.length_sublistsLen, List.length_range]

/-- A property of the words of weight `k` that is one of their positions is counted over the position lists. -/
theorem countP_words_of_weight {n k : Nat} {P : BitVec n → Bool} {Q : List Nat → Bool}
    (hPQ : ∀ v, popcount v = k → P v = Q (oneBits v)) :
    ((allWords n).filter fun v => popcount v == k).countP P = (List.sublistsLen k (List.range n)).countP Q := by
  rw [← (oneBits_words_of_weight_perm n k).countP_eq, List.countP_map]
  refine List.countP_congr fun v hv => ?_
  have hk : popcount v = k := by simpa using (List.mem_filter.mp hv).2
  rw [hPQ v hk]
  rfl

end Sys2Proof.Machine

/-! PROOFS. Codewords damaged in any way (spec 41_decoder.md R75, 93_implementation_defined.md I8): adding a codeword changes
neither the class DEC gives nor the syndrome, so two flips, three flips and the census of all inputs are questions about the
error pattern alone. -/

namespace Sys2Proof.Machine

/-! ### The error pattern alone decides (R75) -/

theorem evalGchk_evalEnc_xor (d : DataWord) (e : Codeword) : evalGchk (evalEnc d ^^^ e) = evalGchk e := by
  have hg : extractG (evalEnc (extractM (evalEnc d ^^^ e))) =
      extractG (evalEnc d) ^^^ extractG (evalEnc (extractM e)) := by
    rw [extractM_xor, extractM_evalEnc, evalEnc_xor, extractG_xor]
  have hcancel : ∀ a b c : BitVec 1, (a ^^^ b == a ^^^ c) = (b == c) := by decide
  rw [evalGchk, evalGchk, hg, extractG_xor, hcancel]

theorem evalSyn_evalEnc_xor (d : DataWord) (e : Codeword) :
    evalSyn (evalEnc d ^^^ e) =
      { evalSyn e with
        data := if (evalSyn e).correctable then d ^^^ (evalSyn e).data else 0
        cw2 := evalEnc d ^^^ (evalSyn e).cw2 } := by
  rw [evalSyn_xor_of_syndrome_zero (syndromeOf_evalEnc d), extractM_evalEnc]

/-- A codeword added to a word adds its data to DEC's record and leaves the rest of it, but for the payload 0x00 of a
syndrome past 12. -/
theorem evalDec_evalEnc_xor (d : DataWord) (e : Codeword) :
    evalDec (evalEnc d ^^^ e) =
      { evalDec e with data := if (evalSyn e).correctable then d ^^^ (evalDec e).data else 0 } := by
  simp only [evalDec, evalSyn_evalEnc_xor, evalGchk_evalEnc_xor]
  cases hc : (evalSyn e).correctable
  · simp [reportUncorrectable]
  · cases hg : evalGchk (evalSyn e).cw2
    · simp [reportUncorrectable]
    · by_cases h0 : syndromeOf e = 0#4 <;> simp [h0]

/-- Settles O28: `evalDec_evalEnc_xor`, and SYN refuses a pattern exactly with the first cause. -/
theorem outcomeDependsOnErrorPatternOnly : Obligations.OutcomeDependsOnErrorPatternOnly := by
  intro d e
  rw [evalDec_evalEnc_xor]
  refine ⟨rfl, rfl, rfl, rfl, fun h => ?_⟩
  have hc : (evalSyn e).correctable = true := by
    rwa [evalSyn_correctable_iff, ← Nat.not_lt, ← evalDec_error_uncorrectableSyndrome_iff]
  exact if_pos hc

/-! ### Two flips (R75) -/

section
variable (d : DataWord) {p q : Nat}

theorem syndromeOf_flipBit_flipBit (hp : p ≤ 12) (hq : q ≤ 12) :
    syndromeOf (flipBit (flipBit (evalEnc d) p) q) = BitVec.ofNat 4 (p ^^^ q) := by
  rw [syndromeOf_flipBit _ hq, syndromeOf_flipBit _ hp, syndromeOf_evalEnc, BitVec.zero_xor, BitVec.ofNat_xor]

theorem xorReduce_flipBit_flipBit (hp : p ≤ 12) (hq : q ≤ 12) :
    xorReduce (flipBit (flipBit (evalEnc d) p) q) = 0#1 := by
  rw [xorReduce_flipBit _ hq, xorReduce_flipBit _ hp, xorReduce_evalEnc]
  decide

/-- Three flips past the G bit that cancel in the syndrome do not leave the data: the word is odd, so with the data `d` it
would be the codeword of `d` with its G bit flipped, and the G bit was not. -/
theorem extractM_ne_of_three_flips (hp1 : 1 ≤ p) (hp : p ≤ 12) (hq1 : 1 ≤ q) (hq : q ≤ 12)
    (hr1 : 1 ≤ p ^^^ q) (hr : p ^^^ q ≤ 12) : extractM (flipBit (flipBit (flipBit (evalEnc d) p) q) (p ^^^ q)) ≠ d := by
  intro hd
  have hs : syndromeOf (flipBit (flipBit (flipBit (evalEnc d) p) q) (p ^^^ q)) = 0#4 := by
    rw [syndromeOf_flipBit _ hr, syndromeOf_flipBit_flipBit d hp hq, BitVec.xor_self]
  have ho : xorReduce (flipBit (flipBit (flipBit (evalEnc d) p) q) (p ^^^ q)) = 1#1 := by
    rw [xorReduce_flipBit _ hr, xorReduce_flipBit_flipBit d hp hq]
    decide
  have hword := eq_flipBit_zero_evalEnc_of_odd hs ho
  rw [hd] at hword
  have hkept : bit (flipBit (flipBit (flipBit (evalEnc d) p) q) (p ^^^ q)) 0 = bit (evalEnc d) 0 := by
    rw [bit_flipBit_of_ne _ (by omega), bit_flipBit_of_ne _ (by omega), bit_flipBit_of_ne _ (by omega)]
  have hflipped : bit (flipBit (evalEnc d) 0) 0 = ~~~bit (evalEnc d) 0 := bit_flipBit _ 0 (by decide)
  have hne : ∀ b : BitVec 1, b ≠ ~~~b := by decide
  rw [hword, hflipped] at hkept
  exact hne _ hkept.symm

end

theorem one_le_xor_of_ne {p q : Nat} (h : p ≠ q) : 1 ≤ p ^^^ q :=
  Nat.one_le_iff_ne_zero.mpr fun h0 => h (Nat.xor_eq_zero_iff.mp h0)

/-- The positions are below 16, so their XOR is a syndrome as it stands. -/
theorem toNat_ofNat_xor_position {p q : Nat} (hp : p ≤ 12) (hq : q ≤ 12) :
    (BitVec.ofNat 4 (p ^^^ q)).toNat = p ^^^ q :=
  Nat.mod_eq_of_lt (Nat.xor_lt_two_pow (by omega) (by omega))

/-- R75, the pairs whose positions add up to a position: the even word is corrected to an odd one. -/
theorem evalDec_of_double_flip_inRange (d : DataWord) {p q : Nat} (hpq : p < q) (hq : q ≤ 12) (hr : p ^^^ q ≤ 12) :
    evalDec (flipBit (flipBit (evalEnc d) p) q) =
      reportUncorrectable .parityMismatchAfterCorrection
        (extractM (flipBit (flipBit (flipBit (evalEnc d) p) q) (p ^^^ q))) (BitVec.ofNat 4 (p ^^^ q)) := by
  have hp : p ≤ 12 := by omega
  have hs := syndromeOf_flipBit_flipBit d hp hq
  have hn := toNat_ofNat_xor_position hp hq
  have h := evalDec_of_position_even (by rw [hs, hn]; exact one_le_xor_of_ne hpq.ne) (by rwa [hs, hn])
    (xorReduce_flipBit_flipBit d hp hq)
  rwa [hs, hn] at h

/-- R75, the pairs whose positions add up past 12. -/
theorem evalDec_of_double_flip_outOfRange (d : DataWord) {p q : Nat} (hp : p ≤ 12) (hq : q ≤ 12) (hr : 12 < p ^^^ q) :
    evalDec (flipBit (flipBit (evalEnc d) p) q) =
      reportUncorrectable .uncorrectableSyndrome 0 (BitVec.ofNat 4 (p ^^^ q)) := by
  have hs := syndromeOf_flipBit_flipBit d hp hq
  rw [evalDec_of_outOfRange (by rwa [hs, toNat_ofNat_xor_position hp hq]), hs]

/-- Settles O27: two flips leave the word even with a syndrome that is not 0, so it is refused or corrected to an odd word. -/
theorem doubleFlipIsDetected : Obligations.DoubleFlipIsDetected := by
  intro d p q hpq hq
  dsimp only
  by_cases hr : p ^^^ q ≤ 12
  case pos =>
    rw [evalDec_of_double_flip_inRange d hpq hq hr]
    refine ⟨rfl, rfl, rfl, ?gBit, fun h1 _ => ⟨rfl, ?_⟩, fun _ h => absurd hr (by omega)⟩
    case gBit =>
      rintro rfl
      rw [Nat.zero_xor, flipBit_flipBit, extractM_flipBit_zero, extractM_evalEnc]
      exact ⟨rfl, rfl⟩
    exact extractM_ne_of_three_flips d h1 (by omega) (by omega) hq (one_le_xor_of_ne hpq.ne) hr
  case neg =>
    rw [evalDec_of_double_flip_outOfRange d (by omega) hq (by omega)]
    refine ⟨rfl, rfl, rfl, ?_, fun _ h => absurd h hr, fun _ _ => ⟨rfl, rfl⟩⟩
    rintro rfl
    exact absurd ((Nat.zero_xor q).trans_le hq) hr

/-! ### Three flips (R75, I8) -/

/-- The syndrome is the XOR of the positions of the 1 bits; position 0 adds nothing to it. -/
theorem syndromeOf_toNat_eq_foldl_oneBits (e : Codeword) :
    (syndromeOf e).toNat = (oneBits e).foldl (fun a p => a ^^^ p) 0 := by
  have hrange : oneBits e = ([0].filter fun p => e.getLsbD p) ++ onePositions e := List.filter_append [0] (List.range' 1 12)
  rw [syndromeOf_toNat_eq_foldl, hrange, List.foldl_append]
  cases he : e.getLsbD 0 <;> rw [List.filter_cons, he] <;> rfl

theorem syndromeOf_evalEnc_xor (d : DataWord) (e : Codeword) : syndromeOf (evalEnc d ^^^ e) = syndromeOf e := by
  rw [syndromeOf_xor, syndromeOf_evalEnc, BitVec.zero_xor]

section
variable (d : DataWord) {e : Codeword} (he : popcount e = 3)
include he

/-- Three flips leave a codeword odd. -/
theorem xorReduce_of_three_flips : xorReduce (evalEnc d ^^^ e) = 1#1 := by
  rw [xorReduce_xor, xorReduce_evalEnc, xorReduce_eq_popcount, he]
  decide

/-- A word with syndrome 0 that one more flip makes of three flips is not the codeword that was sent. -/
theorem extractM_flipBit_of_three_flips_ne {p : Nat} (h12 : p ≤ 12)
    (hs : syndromeOf (flipBit (evalEnc d ^^^ e) p) = 0#4) : extractM (flipBit (evalEnc d ^^^ e) p) ≠ d := by
  intro hd
  have hsingle : ∀ q ≤ 12, popcount (flipBit 0#13 q) = 1 := by decide
  have heven : xorReduce (flipBit (evalEnc d ^^^ e) p) = 0#1 := by
    rw [xorReduce_flipBit _ h12, xorReduce_of_three_flips d he]
    decide
  have hcw : evalEnc d ^^^ flipBit e p = evalEnc d ^^^ 0#13 := by
    rw [← flipBit_xor, eq_evalEnc_of_even hs heven, hd, BitVec.xor_zero]
  have hzero : flipBit e p = 0#13 := (BitVec.xor_right_inj _).mp hcw
  have hone : e = flipBit 0#13 p := by rw [← hzero, flipBit_flipBit]
  rw [hone, hsingle p h12] at he
  cases he

/-- Three flips are corrected, to a wrong DataWord, exactly when their positions add up to a position. -/
theorem evalDec_corrected_of_three_flips :
    ((evalDec (evalEnc d ^^^ e)).outcome == .corrected && (evalDec (evalEnc d ^^^ e)).data != d) =
      (decide (1 ≤ (syndromeOf e).toNat) && decide ((syndromeOf e).toNat ≤ 12)) := by
  have ho := xorReduce_of_three_flips d he
  rw [← syndromeOf_evalEnc_xor d e]
  obtain ⟨-, hx, -⟩ | ⟨h0, -, h⟩ | ⟨h1, h12, -, h⟩ | ⟨-, -, hx, -⟩ | ⟨h13, h⟩ := evalDec_closed_cases (evalEnc d ^^^ e)
  · simp [ho] at hx
  · simp [h, h0, reportUncorrectable]
  · have hne := extractM_flipBit_of_three_flips_ne d he h12 (syndromeOf_flipBit_syndromeOf h12)
    simp [h, h1, h12, hne]
  · simp [ho] at hx
  · have hgt : ¬(syndromeOf (evalEnc d ^^^ e)).toNat ≤ 12 := Nat.not_le.mpr h13
    simp [h, reportUncorrectable, hgt]

theorem evalDec_parityMismatch_of_three_flips :
    ((evalDec (evalEnc d ^^^ e)).error == .parityMismatchAfterCorrection) = ((syndromeOf e).toNat == 0) := by
  have ho := xorReduce_of_three_flips d he
  rw [Bool.eq_iff_iff, beq_iff_eq, beq_iff_eq, evalDec_error_parityMismatch_iff, ho, syndromeOf_evalEnc_xor]
  simp

end

theorem evalDec_uncorrectableSyndrome_evalEnc_xor (d : DataWord) (e : Codeword) :
    ((evalDec (evalEnc d ^^^ e)).error == .uncorrectableSyndrome) = decide (12 < (syndromeOf e).toNat) := by
  rw [Bool.eq_iff_iff, beq_iff_eq, decide_eq_true_iff, evalDec_error_uncorrectableSyndrome_iff, syndromeOf_evalEnc_xor]

/-- The XORs of the 286 triples of positions. -/
def tripleXors : List Nat := (List.sublistsLen 3 (List.range 13)).map fun ps => ps.foldl (fun a p => a ^^^ p) 0

/-- What DEC makes of three flips, if it is fixed by their syndrome, is counted over the triples of positions. -/
theorem countP_three_flips {P : Codeword → Bool} {Q : Nat → Bool}
    (hPQ : ∀ e, popcount e = 3 → P e = Q (syndromeOf e).toNat) :
    ((allWords 13).filter fun e => popcount e == 3).countP P = tripleXors.countP Q := by
  rw [tripleXors, List.countP_map]
  exact countP_words_of_weight fun e he => by rw [hPQ e he, syndromeOf_toNat_eq_foldl_oneBits]; rfl

/-- Settles O30: each triple's class is that of the XOR of its positions, and the 286 XORs are counted. -/
theorem tripleFlipsAreNotGuaranteed : Obligations.TripleFlipsAreNotGuaranteed := by
  refine ⟨length_words_of_weight 13 3, fun d => ⟨?corrected, ?syndrome, ?parity⟩⟩
  case corrected =>
    refine (countP_three_flips (Q := fun x => decide (1 ≤ x) && decide (x ≤ 12))
      fun e he => evalDec_corrected_of_three_flips d he).trans ?_
    decide +kernel
  case syndrome =>
    refine (countP_three_flips (Q := fun x => decide (12 < x))
      fun e _ => evalDec_uncorrectableSyndrome_evalEnc_xor d e).trans ?_
    decide +kernel
  case parity =>
    refine (countP_three_flips (Q := fun x => x == 0)
      fun e he => evalDec_parityMismatch_of_three_flips d he).trans ?_
    decide +kernel

/-! ### The census of all inputs (R75) -/

/-- The 32 words without data: one for each syndrome and G bit. -/
def barePatterns : List Codeword :=
  (allWords 4).flatMap fun c => (allWords 1).map fun g => assemble 0 c g

theorem mem_barePatterns {e : Codeword} (he : extractM e = 0#8) : e ∈ barePatterns := by
  have hword := assemble_extract e
  rw [he] at hword
  simp only [barePatterns, List.mem_flatMap, List.mem_map]
  exact ⟨extractC e, mem_allWords _, extractG e, mem_allWords _, hword⟩

theorem mem_codewords_xor (w : Codeword) :
    w ∈ (allWords 8).flatMap fun d => barePatterns.map (evalEnc d ^^^ ·) := by
  simp only [List.mem_flatMap, List.mem_map]
  have hbare : extractM (evalEnc (extractM w) ^^^ w) = 0#8 := by
    rw [extractM_xor, extractM_evalEnc, BitVec.xor_self]
  refine ⟨extractM w, mem_allWords _, evalEnc (extractM w) ^^^ w, mem_barePatterns hbare, ?_⟩
  rw [← BitVec.xor_assoc, BitVec.xor_self, BitVec.zero_xor]

/-- Every word is a codeword with a bare pattern added, and there are no more of the one than of the other. -/
theorem allWords_perm_codewords_xor :
    (allWords 13).Perm ((allWords 8).flatMap fun d => barePatterns.map (evalEnc d ^^^ ·)) := by
  refine (List.subperm_of_subset (nodup_allWords 13) fun w _ => mem_codewords_xor w).perm_of_length_le ?_
  have hbare : barePatterns.length = 32 := by decide
  simp only [List.length_flatMap, List.length_map, List.map_const', List.sum_replicate, length_allWords, hbare]
  decide

/-- A count over all words of what adding a codeword does not change is 256 times the count over the bare patterns. -/
theorem countP_allWords {P : Codeword → Bool} (hP : ∀ d e, P (evalEnc d ^^^ e) = P e) :
    (allWords 13).countP P = 256 * barePatterns.countP P := by
  have hcoset (d : DataWord) : (barePatterns.map (evalEnc d ^^^ ·)).countP P = barePatterns.countP P := by
    rw [List.countP_map]
    exact List.countP_congr fun e _ => by rw [Function.comp_apply, hP]
  rw [allWords_perm_codewords_xor.countP_eq, List.countP_flatMap]
  simp only [Function.comp_def, hcoset, List.map_const', List.sum_replicate, length_allWords, smul_eq_mul]
  rfl

theorem countP_evalDec {f : DecResult → Bool} (hf : ∀ r x, f { r with data := x } = f r) :
    ((List.range 8192).countP fun w => f (evalDec (BitVec.ofNat 13 w))) =
      256 * barePatterns.countP fun e => f (evalDec e) := by
  refine Eq.trans ?_ (countP_allWords fun d e => by rw [evalDec_evalEnc_xor, hf])
  rw [allWords, List.countP_map]
  rfl

/-- Settles O29: the class and the syndrome are those of the bare pattern, and the 32 bare patterns are counted. -/
theorem censusOfAllInputs : Obligations.CensusOfAllInputs := by
  refine ⟨(countP_evalDec (f := fun r => r.outcome == .clean) fun _ _ => rfl).trans ?_,
    (countP_evalDec (f := fun r => r.outcome == .corrected) fun _ _ => rfl).trans ?_,
    (countP_evalDec (f := fun r => r.outcome == .uncorrectable && r.error == .uncorrectableSyndrome)
      fun _ _ => rfl).trans ?_,
    (countP_evalDec (f := fun r => r.outcome == .uncorrectable && r.error == .parityMismatchAfterCorrection)
      fun _ _ => rfl).trans ?_,
    (countP_evalDec (f := fun r => r.error == .parityMismatchAfterCorrection && r.syndrome == 0)
      fun _ _ => rfl).trans ?_⟩ <;> decide

end Sys2Proof.Machine

/-! PROOFS. The environment's decode path (spec 20_memory.md R25; 41_decoder.md R74, R75): what one unit delivers, undamaged,
with one flip and with two, and the same over a stream by induction. -/

namespace Sys2Proof.Machine

/-! ### The decode path unit by unit (R25) -/

theorem decodeUnits_append (us vs : List Container16) : decodeUnits (us ++ vs) = decodeUnits us ++ decodeUnits vs :=
  List.filterMap_append

/-- DEC flags exactly the Uncorrectable words not valid (R39). -/
theorem evalDec_dataValid_eq (cw : Codeword) : (evalDec cw).dataValid = !((evalDec cw).outcome == .uncorrectable) := by
  obtain ⟨ho, hv, -⟩ | ⟨ho, hv, -⟩ | ⟨ho, hv, -⟩ | ⟨ho, hv, -⟩ := evalDec_row cw <;> rw [ho, hv] <;> rfl

/-- A unit gives one byte or none, and none exactly when it is Uncorrectable. -/
theorem length_delivered_add (cw : Codeword) :
    (evalDec cw).delivered.toList.length + (if (evalDec cw).outcome == .uncorrectable then 1 else 0) = 1 := by
  have hv := evalDec_dataValid_eq cw
  cases ho : (evalDec cw).outcome == .uncorrectable <;> simp [DecResult.delivered, hv, ho]

theorem length_decodeUnits_add_countP (us : List Container16) :
    (decodeUnits us).length + us.countP (fun k => (evalDec (ofContainer k)).outcome == .uncorrectable) = us.length := by
  induction us with
  | nil => rfl
  | cons k ks ih =>
    have hunit := length_delivered_add (ofContainer k)
    rw [decodeUnits_cons, List.length_append, List.countP_cons, List.length_cons]
    omega

/-- Settles O43: the path is a `filterMap`, and each unit's length adds up by induction. -/
theorem decodePathSkipsUncorrectableUnits : Obligations.DecodePathSkipsUncorrectableUnits := by
  refine ⟨decodeUnits_append, fun k => ⟨fun hv => ?_, fun hv => ?_⟩, length_decodeUnits_add_countP⟩
  · simp [decodeUnits_cons, DecResult.delivered, hv]
  · simp [decodeUnits_cons, DecResult.delivered, hv]

/-- Settles O44: each container is read back as it was written, and a codeword is Clean. -/
theorem undamagedStreamReproducesInput : Obligations.UndamagedStreamReproducesInput := decodeStream_encodeStream

/-- Two bytes at a time leave one over exactly in a stream of odd length. -/
theorem readContainers_eq_none_iff (order : ByteOrder) (stream : List Byte) :
    readContainers order stream = none ↔ stream.length % 2 = 1 := by
  match stream with
  | [] => simp
  | [_] => simp [readContainers]
  | _ :: _ :: rest => simp [readContainers_eq_none_iff order rest, Nat.add_mod_right, Nat.add_assoc]

/-- Settles O45: decoding the units refuses nothing, so a stream is refused where its containers are not read. -/
theorem oddStreamIsRefused : Obligations.OddStreamIsRefused := by
  intro order stream
  rw [decodeStream, Option.map_eq_none_iff, readContainers_eq_none_iff]

/-! ### What a damaged unit delivers (R74, R75) -/

/-- The patterns of weight at most two, as flips of a word. -/
theorem flips_of_weight_le_two {e : Codeword} (he : popcount e ≤ 2) (w : Codeword) :
    w ^^^ e = w ∨ (∃ p ≤ 12, oneBits e = [p] ∧ w ^^^ e = flipBit w p) ∨
      ∃ p q, p < q ∧ q ≤ 12 ∧ oneBits e = [p, q] ∧ w ^^^ e = flipBit (flipBit w p) q := by
  have hword : w ^^^ e = w ^^^ wordOfBits 13 (oneBits e) := by rw [wordOfBits_oneBits]
  have hrange : ∀ p ∈ oneBits e, p ≤ 12 := fun p hp =>
    Nat.le_of_lt_succ (List.mem_range.mp ((oneBits_sublist e).subset hp))
  have hsorted : (oneBits e).Pairwise (· < ·) := List.pairwise_lt_range.sublist (oneBits_sublist e)
  rw [← length_oneBits] at he
  rw [hword]
  match h : oneBits e with
  | [] => exact .inl BitVec.xor_zero
  | [p] =>
    rw [h] at hrange
    refine .inr (.inl ⟨p, hrange p (by simp), rfl, ?_⟩)
    simp [wordOfBits, flipBit]
  | [p, q] =>
    rw [h] at hrange hsorted
    refine .inr (.inr ⟨p, q, by simpa using hsorted, hrange q (by simp), rfl, ?_⟩)
    simp [wordOfBits, flipBit, BitVec.xor_assoc]
  | _ :: _ :: _ :: _ => simp [h] at he

theorem delivered_flipBit_evalEnc (d : DataWord) {p : Nat} (h1 : 1 ≤ p) (h12 : p ≤ 12) :
    (evalDec (flipBit (evalEnc d) p)).delivered = some d := by
  simp [evalDec_flipBit_of_gchk (syndromeOf_evalEnc d) (evalGchk_evalEnc d) h1 h12, DecResult.delivered]

theorem delivered_evalEnc (d : DataWord) : (evalDec (evalEnc d)).delivered = some d := by
  simp [evalDec_evalEnc, DecResult.delivered]

/-- R74: a unit with at most one flip, and that not of the G bit, delivers its byte. -/
theorem delivered_of_weight_le_one (d : DataWord) {e : Codeword} (he : popcount e ≤ 1) (hg : bit e 0 = 0) :
    (evalDec (evalEnc d ^^^ e)).delivered = some d := by
  obtain h | ⟨p, h12, hp, h⟩ | ⟨p, q, -, -, hpq, -⟩ := flips_of_weight_le_two (he.trans one_le_two) (evalEnc d)
  · rw [h, delivered_evalEnc]
  · have h1 : p ≠ 0 := by
      rintro rfl
      have hmem : 0 ∈ oneBits e := hp ▸ List.mem_singleton_self 0
      rw [bit_eq_ofBool, (List.mem_filter.mp hmem).2] at hg
      exact absurd hg (by decide)
    rw [h, delivered_flipBit_evalEnc d (Nat.pos_of_ne_zero h1) h12]
  · rw [← length_oneBits, hpq] at he
    exact absurd he (by decide : ¬2 ≤ 1)

/-- R75: a unit with at most two flips delivers its byte or nothing. -/
theorem delivered_of_weight_le_two (d : DataWord) {e : Codeword} (he : popcount e ≤ 2) :
    (evalDec (evalEnc d ^^^ e)).delivered = none ∨ (evalDec (evalEnc d ^^^ e)).delivered = some d := by
  obtain h | ⟨p, h12, -, h⟩ | ⟨p, q, hpq, hq, -, h⟩ := flips_of_weight_le_two he (evalEnc d) <;> rw [h]
  · exact .inr (delivered_evalEnc d)
  · obtain rfl | h1 := Nat.eq_zero_or_pos p
    · left
      rw [evalDec_flipBit_zero_evalEnc]
      rfl
    · exact .inr (delivered_flipBit_evalEnc d h1 h12)
  · obtain ⟨-, hv, -⟩ := doubleFlipIsDetected d p q hpq hq
    exact .inl (by simp [DecResult.delivered, hv])

/-! ### Damaged streams -/

theorem ofContainer_xor (k k' : Container16) : ofContainer (k ^^^ k') = ofContainer k ^^^ ofContainer k' :=
  BitVec.extractLsb'_xor

/-- The decode path over a damaged stream: each unit is its codeword with the pattern's 13 low bits flipped. -/
theorem decodeUnits_damageUnits_cons (b : Byte) (bs : List Byte) (e : Container16) (es : List Container16) :
    decodeUnits (damageUnits (encodeUnits (b :: bs)) (e :: es)) =
      (evalDec (evalEnc b ^^^ ofContainer e)).delivered.toList ++ decodeUnits (damageUnits (encodeUnits bs) es) := by
  rw [encodeUnits_cons, damageUnits_cons, decodeUnits_cons, ofContainer_xor, ofContainer_toContainer]

/-- Settles O46: each unit delivers its byte, by induction on the input. -/
theorem singleFlipStreamIsRecovered : Obligations.SingleFlipStreamIsRecovered := by
  intro bytes
  induction bytes with
  | nil => exact fun _ _ _ => rfl
  | cons b bs ih =>
    rintro (_ | ⟨e, es⟩) hlen hes
    · cases hlen
    obtain ⟨⟨hone, hg⟩, hes⟩ := List.forall_mem_cons.mp hes
    have hunit := delivered_of_weight_le_one b hone ((bit_ofContainer e (by decide)).trans hg)
    rw [decodeUnits_damageUnits_cons, hunit, ih es (Nat.succ.inj hlen) hes]
    rfl

/-- Settles O47: each unit delivers its byte or nothing, by induction on the input. -/
theorem twoFlipStreamIsNeverCorrupted : Obligations.TwoFlipStreamIsNeverCorrupted := by
  intro bytes
  induction bytes with
  | nil => exact fun _ _ _ => List.Sublist.slnil
  | cons b bs ih =>
    rintro (_ | ⟨e, es⟩) hlen hes
    · cases hlen
    obtain ⟨htwo, hes⟩ := List.forall_mem_cons.mp hes
    have hrest := ih es (Nat.succ.inj hlen) hes
    rw [decodeUnits_damageUnits_cons]
    obtain h | h := delivered_of_weight_le_two b htwo <;> rw [h]
    · exact hrest.cons b
    · exact hrest.cons_cons b

end Sys2Proof.Machine
